-- ==== Sys2Proof/Word.lean ====
section
/-! DEFINITION. The word types of the block: bytes, 16-bit stream fields (R10) and 32-bit interface registers (R21). -/

namespace Sys2Proof

/-- A byte of a buffer or of the stream (R60, R69). -/
abbrev Byte := BitVec 8

/-- A 16-bit field of the stream: a chunk header or a back-reference (R10, R65). -/
abbrev Half := BitVec 16

/-- An interface register (R21). -/
abbrev Word := BitVec 32

end Sys2Proof
end

