-- ==== Sys2Proof/Config.lean ====
section
/-! DEFINITION. What the spec leaves to the implementation (93_implementation_defined.md): the open
parameters and the free values. None has a body, so no proof can rest on a value of one. -/

namespace Sys2Proof.Config

/-- IN_CAP, the input buffer's capacity in bytes (R6, I1). -/
opaque inCap : Word

/-- OUT_CAP, the output buffer's capacity in bytes (R6, I2). -/
opaque outCap : Word

/-- The host address at which the platform places IN (R71, I3). -/
opaque inHostBase : Nat

/-- The host address at which the platform places OUT (R71, I3). -/
opaque outHostBase : Nat

/-- REG_BASE, the host address of register 0 (R6, R71, I3). -/
opaque regBase : Nat

/-- The byte the `n`th free draw returns: a host read the spec answers with "any value" (I7, I8, I9, I10). -/
opaque freeByte : Nat → Byte

/-- The word the `n`th free draw returns: a host read of OUT_LEN while BUSY (R279, I9). -/
opaque freeWord : Nat → Word

end Sys2Proof.Config
end

