-- ==== Sys2Proof/Syntax.lean ====
section
/-! DEFINITION. The instructions: one constructor per row of spec/opcode_table.json (R90, R105, R108), with the fields
of its format (R91, R95 to R101). A command keeps the bits 31:2 that the block ignores, so that no bit is dropped. -/

namespace Sys2Proof

inductive Instr where
  /-- `END`: the header word 0x0000 (R93, R173). -/
  | endMark
  /-- `HDR.R`: a conformant raw header (R91, R175). -/
  | hdrR (sizeM1 : BitVec 12)
  /-- `HDR.C`: a conformant compressed header (R91, R175). -/
  | hdrC (sizeM1 : BitVec 12)
  /-- `HDR.R.NS`: a raw header whose signature is not `0b011` (R93, R174). -/
  | hdrRNs (sig : BitVec 3) (sizeM1 : BitVec 12)
  /-- `HDR.C.NS`: a compressed header whose signature is not `0b011` (R93, R174). -/
  | hdrCNs (sig : BitVec 3) (sizeM1 : BitVec 12)
  /-- `RAW`: the payload of a raw chunk, `SIZE` bytes (R101, R176). -/
  | raw (payload : List Byte)
  /-- `TAG`: the control byte of a tag group (R95, R140). -/
  | tag (t : Byte)
  /-- `LIT`: a literal byte (R96, R142). -/
  | lit (b : Byte)
  /-- `REF.O4`: a back-reference at positions 0 to 16 (R100, R143). -/
  | refO4 (dispM1 : BitVec 4) (lenM3 : BitVec 12)
  /-- `REF.O5`: a back-reference at positions 17 to 32 (R100, R143). -/
  | refO5 (dispM1 : BitVec 5) (lenM3 : BitVec 11)
  /-- `REF.O6`: a back-reference at positions 33 to 64 (R100, R143). -/
  | refO6 (dispM1 : BitVec 6) (lenM3 : BitVec 10)
  /-- `REF.O7`: a back-reference at positions 65 to 128 (R100, R143). -/
  | refO7 (dispM1 : BitVec 7) (lenM3 : BitVec 9)
  /-- `REF.O8`: a back-reference at positions 129 to 256 (R100, R143). -/
  | refO8 (dispM1 : BitVec 8) (lenM3 : BitVec 8)
  /-- `REF.O9`: a back-reference at positions 257 to 512 (R100, R143). -/
  | refO9 (dispM1 : BitVec 9) (lenM3 : BitVec 7)
  /-- `REF.O10`: a back-reference at positions 513 to 1024 (R100, R143). -/
  | refO10 (dispM1 : BitVec 10) (lenM3 : BitVec 6)
  /-- `REF.O11`: a back-reference at positions 1025 to 2048 (R100, R143). -/
  | refO11 (dispM1 : BitVec 11) (lenM3 : BitVec 5)
  /-- `REF.O12`: a back-reference at positions 2049 to 4096 (R100, R143). -/
  | refO12 (dispM1 : BitVec 12) (lenM3 : BitVec 4)
  /-- `CMD.NOP`: a write of `CMD` with `OP = 0` (R22, R105). -/
  | cmdNop (ignored : BitVec 30)
  /-- `CMD.COMPRESS`: a write of `CMD` with `OP = 1` (R105, R200). -/
  | cmdCompress (ignored : BitVec 30)
  /-- `CMD.DECOMPRESS`: a write of `CMD` with `OP = 2` (R105, R170). -/
  | cmdDecompress (ignored : BitVec 30)
  /-- `CMD.RSVD`: a write of `CMD` with the reserved `OP = 3` (R22, R103). -/
  | cmdRsvd (ignored : BitVec 30)
  deriving DecidableEq, Repr

/-- Where a token stands, which alone selects its form (R90, R102): the command register, or a place of the stream. -/
inductive Place where
  /-- A host write of `CMD` (R22). -/
  | command
  /-- `DSTATE = D_HDR`. -/
  | header
  /-- `DSTATE = D_RAW` with the chunk's `SIZE`. -/
  | raw (size : Nat)
  /-- `DSTATE = D_TAG`. -/
  | tag
  /-- `DSTATE = D_ITEM` with a clear tag bit. -/
  | literal
  /-- `DSTATE = D_ITEM` with a set tag bit, at chunk position `pos`. -/
  | reference (pos : Nat)
  deriving DecidableEq, Repr

/-- Why bytes are no token at a place: the only encodings the decoder rejects are incomplete ones, and a raw payload
of a size no header can declare (R90, R92). -/
inductive Reject where
  /-- Fewer than the four bytes of a `CMD` word. -/
  | shortCommand
  /-- Fewer than the two bytes of a header. -/
  | shortHeader
  /-- A raw payload size outside 1 to 4096. -/
  | badRawSize
  /-- Fewer bytes than the raw payload's size. -/
  | shortRaw
  /-- No tag byte. -/
  | shortTag
  /-- No literal byte. -/
  | shortLiteral
  /-- Fewer than the two bytes of a back-reference. -/
  | shortReference
  deriving DecidableEq, Repr

/-- What the decoder answers: a token with the bytes after it, or a rejection by name. -/
inductive Decoded where
  | token (i : Instr) (rest : List Byte)
  | rejected (r : Reject)
  deriving DecidableEq, Repr

end Sys2Proof
end

