-- ==== Sys2Proof/Machine/State.lean ====
section
/-! DEFINITION. The state of the block as plain data (10_state.md, 20_memory.md), the reasons a step can stop, and the
state after reset (R270). -/

namespace Sys2Proof.Machine

/-- A buffer: (address, byte) cells with addresses strictly rising. An unlisted address has no value: contents after
reset are unspecified (R271; entry 5). -/
abbrev Memory := List Host.Cell

/-- `DSTATE`, the decoder's state machine (R31). -/
inductive DState where
  /-- `D_IDLE`: the decoder is not running. -/
  | idle
  /-- `D_HDR`: the next token is a chunk header, or the end of the stream. -/
  | hdr
  /-- `D_RAW`: the next token is a raw payload. -/
  | raw
  /-- `D_TAG`: the next token is a tag byte, or the budget is spent. -/
  | tag
  /-- `D_ITEM`: the next token is item `IDX` of the group. -/
  | item
  /-- `D_DONE`: the stream ended without error. -/
  | done
  deriving DecidableEq, Repr

/-- `ESTATE`, the encoder's state (R39). -/
inductive EState where
  /-- `E_IDLE`: not running. -/
  | idle
  /-- `E_SLICE`: the next step starts a slice or finishes. -/
  | slice
  /-- `E_ITEM`: the next step produces an item. -/
  | item
  /-- `E_EMIT`: the next step writes the chunk. -/
  | emit
  /-- `E_DONE`: the command completed. -/
  | done
  deriving DecidableEq, Repr

/-- The meaning of `STATUS.STATE` (R24). -/
inductive EngineState where
  /-- 0: no command since reset. -/
  | idle
  /-- 1: a command is running. -/
  | busy
  /-- 2: the last command completed. -/
  | done
  /-- 3: the last command failed. -/
  | error
  deriving DecidableEq, Repr

/-- The causes of the block's errors, one per (`ERR.CODE`, `ERR.DETAIL`) pair (R241, R242, R243). -/
inductive Cause where
  /-- TruncatedInput 1: one byte left where a header starts (R172). -/
  | loneByte
  /-- TruncatedInput 2: a raw chunk declares more than the input holds (R176). -/
  | shortRaw
  /-- TruncatedInput 3: the input ends before a tag byte, literal or back-reference (R140, R142, R143). -/
  | inputEnded
  /-- TruncatedInput 4: a back-reference straddles the chunk's declared end (R143). -/
  | straddle
  /-- InvalidHeader 1: signature mismatch under strict validation (R174). -/
  | badSignature
  /-- MalformedReference 1: displacement zero, unreachable (R143, C6). -/
  | zeroDisplacement
  /-- MalformedReference 2: displacement greater than the position (R143). -/
  | farDisplacement
  /-- MalformedReference 3: position plus length greater than 4096 (R143). -/
  | tooLong
  /-- MalformedReference 4: a literal at position 4096 (R142). -/
  | chunkFull
  deriving DecidableEq, Repr

/-- What the host does, one action at a time (R11, R21, R60, R270). -/
inductive HostAction where
  /-- Leave the block alone for one step (entry 2). -/
  | wait
  /-- Write register `n` (R21). -/
  | writeReg (n : Nat) (v : Word)
  /-- Read register `n` (R21). -/
  | readReg (n : Nat)
  /-- Load byte `b` at address `a` of IN (R60). -/
  | loadIn (a : Word) (b : Byte)
  /-- Read the byte at address `a` of IN (R60). -/
  | readIn (a : Word)
  /-- Read the byte at address `a` of OUT (R60). -/
  | readOut (a : Word)
  /-- Reset the block (R270). -/
  | reset
  deriving DecidableEq, Repr

/-- The state of the block. -/
structure State where
  /-- `CFG` (R23). -/
  cfg : Word
  /-- `STATUS` (R24). -/
  status : Word
  /-- `ERR` (R25). -/
  err : Word
  /-- `IN_LEN` (R26). -/
  inLen : Word
  /-- `OUT_LEN` (R27). -/
  outLen : Word
  /-- `FAULT_IP` (R28). -/
  faultIp : Word
  /-- `FAULT_POS` (R29). -/
  faultPos : Word
  /-- `DSTATE` (R31). -/
  dstate : DState
  /-- `IP`, the decoder's program counter (R32). -/
  ip : BitVec 33
  /-- `CHUNK_END` (R33). -/
  chunkEnd : BitVec 33
  /-- `SIZE` (R34). -/
  size : BitVec 13
  /-- `CFLAG` (R34). -/
  cflag : Bool
  /-- `POS` (R35). -/
  pos : BitVec 13
  /-- `OLEN` (R36). -/
  olen : Word
  /-- `OUT_BASE` (R36). -/
  outBase : Word
  /-- `TAG` (R37). -/
  tag : Byte
  /-- `IDX` (R37). -/
  idx : BitVec 4
  /-- `STRICT_L` (R40). -/
  strictL : Bool
  /-- `ESTATE` (R39). -/
  estate : EState
  /-- `SLICE_BASE` (R41). -/
  sliceBase : Word
  /-- `SLICE_LEN` (R41). -/
  sliceLen : BitVec 13
  /-- `EPOS`, the encoder's cursor (R42). -/
  epos : BitVec 13
  /-- `CAND_LEN` (R43). -/
  candLen : BitVec 13
  /-- `ETAG_AT` (R43). -/
  etagAt : BitVec 13
  /-- `EIDX` (R43). -/
  eidx : BitVec 4
  /-- `MF_INDEX` (R44): the covered positions of the current slice, nearest first. DESIGN CHOICE (entry 13), safe. -/
  mfIndex : List Nat
  /-- The input buffer `IN` (R60, R61). -/
  inBuf : Memory
  /-- The output buffer `OUT` (R60, R62). -/
  outBuf : Memory
  /-- The candidate buffer `CAND` (R43, R60). -/
  cand : Memory
  /-- The parameter `IN_CAP` (R6, I1; entry 1). -/
  inCap : Word
  /-- The parameter `OUT_CAP` (R6, I2; entry 1). -/
  outCap : Word
  /-- The parameter "host address of IN" (R71, I3; entry 7). -/
  inHostBase : Nat
  /-- The parameter "host address of OUT" (R71, I3; entry 7). -/
  outHostBase : Nat
  /-- The parameter REG_BASE (R6, R71, I3; entry 8). -/
  regBase : Nat
  /-- The model's own: the host's pending actions, oldest first (entry 2). -/
  host : List HostAction
  /-- The model's own: what the last host read returned (entry 3). -/
  hostData : Word
  /-- The model's own: how many free values have been drawn (entry 4). -/
  draws : Nat
  deriving DecidableEq, Repr

/-- The machine stops. No constructor is raised in a state that a run from reset reaches by host actions inside the
address spaces of R60. -/
inductive Fault where
  /-- Raised by a host access to IN at or beyond IN_CAP, or to OUT at or beyond OUT_CAP (R60: the address does not
  exist; entry 16). Safe. -/
  | noSuchAddress
  /-- Raised by an engine access outside IN[0 .. IN_LEN - 1], outside the bytes OUT holds, or outside CAND, which the
  spec says never happens (R61, R63, R248); only datapath values that no run produces lead here (entry 15). Safe. -/
  | engineAccess
  /-- Raised by an engine step whose datapath registers hold values that no run produces, such as BUSY with
  `DSTATE = D_IDLE` (entry 15). Safe. -/
  | brokenDatapath
  /-- Raised by a fetch whose bytes the decoder rejects, which a fetch of the token's own length never does
  (entry 15). Safe. -/
  | rejected (r : Reject)
  deriving DecidableEq, Repr

/-- The model has no meaning for the run (93_implementation_defined.md, treatment `refuse`). -/
inductive Refusal where
  /-- Raised by exec for an instruction that has no meaning in the model. Safe. -/
  | notModelled (mnemonic : String)
  /-- Raised by a meaning whose token does not stand where the format lets it stand (R90, R102; entry 10): the
  step never fetches such a token. Safe. -/
  | outOfPlace
  /-- Raised by a host write of CMD, CFG, IN_LEN or a byte of IN while BUSY (R22, R278, I12). Safe. -/
  | hostWriteWhileBusy
  /-- Raised by a host write of IN_LEN greater than IN_CAP (R26, I14). Safe. -/
  | inLenOverCap
  /-- Raised by the start of a command whose input `IN[0 .. IN_LEN - 1]` the host has not loaded (R275 step 2;
  entry 5), and by an engine read of such a byte, which no run comes to. Safe. -/
  | inputNotLoaded
  /-- Raised by the start of a command whose IN and OUT share storage (R76, R280, I13). Safe. -/
  | buffersShareStorage
  /-- Raised by an append at or beyond OUT_CAP (R78, I15). Safe. -/
  | outputFull
  deriving DecidableEq, Repr

/-- What a step or a meaning answers. -/
abbrev Answer := Host.Outcome State Fault Refusal

/-- The state after reset (R270, R271, R272): every register 0, `D_IDLE`, `E_IDLE`, the index empty, nothing listed in
a buffer; the parameters as the implementation has them, and no host action pending. -/
def State.reset : State where
  cfg := 0
  status := 0
  err := 0
  inLen := 0
  outLen := 0
  faultIp := 0
  faultPos := 0
  dstate := .idle
  ip := 0
  chunkEnd := 0
  size := 0
  cflag := false
  pos := 0
  olen := 0
  outBase := 0
  tag := 0
  idx := 0
  strictL := false
  estate := .idle
  sliceBase := 0
  sliceLen := 0
  epos := 0
  candLen := 0
  etagAt := 0
  eidx := 0
  mfIndex := []
  inBuf := []
  outBuf := []
  cand := []
  inCap := Config.inCap
  outCap := Config.outCap
  inHostBase := Config.inHostBase
  outHostBase := Config.outHostBase
  regBase := Config.regBase
  host := []
  hostData := 0
  draws := 0

end Sys2Proof.Machine
end

