-- ==== Sys2Proof/Machine/Flags.lean ====
section
/-! DEFINITION. The fields of the status registers. The block has no condition codes (R38): its flags are
`STATUS.STATE`, `STATUS.LAST_OP`, `CFG.STRICT`, the codes of `ERR`, and the bits of `TAG`. -/

namespace Sys2Proof.Machine

/-- The code of a `STATUS.STATE` value (R24). -/
def EngineState.code : EngineState → BitVec 2
  | .idle => 0#2
  | .busy => 1#2
  | .done => 2#2
  | .error => 3#2

/-- `STATUS.STATE`, bits 1:0 (R24). -/
def State.engine (s : State) : EngineState :=
  match (s.status.extractLsb' 0 2).toNat with
  | 0 => .idle
  | 1 => .busy
  | 2 => .done
  | _ => .error

/-- `STATUS.LAST_OP`, bits 3:2 (R24). -/
def State.lastOp (s : State) : BitVec 2 := s.status.extractLsb' 2 2

/-- `STATUS` with `STATE` written and every other bit kept (R24). -/
def statusSetState (w : Word) (e : EngineState) : Word := w.extractLsb' 2 30 ++ e.code

/-- `STATUS` with `LAST_OP` and `STATE` written and every other bit kept (R24). -/
def statusStart (w : Word) (op : BitVec 2) (e : EngineState) : Word := w.extractLsb' 4 28 ++ op ++ e.code

/-- `CFG.STRICT`, bit 0 (R23). -/
def State.strict (s : State) : Bool := s.cfg.getLsbD 0

/-- `ERR.CODE` of a cause (R240). -/
def Cause.code : Cause → BitVec 2
  | .loneByte => 1#2
  | .shortRaw => 1#2
  | .inputEnded => 1#2
  | .straddle => 1#2
  | .badSignature => 2#2
  | .zeroDisplacement => 3#2
  | .farDisplacement => 3#2
  | .tooLong => 3#2
  | .chunkFull => 3#2

/-- `ERR.DETAIL` of a cause (R241, R242, R243). -/
def Cause.detail : Cause → BitVec 4
  | .loneByte => 1#4
  | .shortRaw => 2#4
  | .inputEnded => 3#4
  | .straddle => 4#4
  | .badSignature => 1#4
  | .zeroDisplacement => 1#4
  | .farDisplacement => 2#4
  | .tooLong => 3#4
  | .chunkFull => 4#4

/-- The `ERR` word of a cause: `CODE` in bits 1:0, `DETAIL` in bits 7:4, the rest 0 (R25). -/
def errWord (c : Cause) : Word := (0#24 : BitVec 24) ++ c.detail ++ 0#2 ++ c.code

/-- `TAG[IDX]`, the kind of the next item: set for a back-reference (R38, R66, R95). -/
def State.tagBit (s : State) : Bool := s.tag.getLsbD s.idx.toNat

/-- A DECOMPRESS is running: `STATE = BUSY` and the last command started is `OP = 2` (R24). -/
def State.decoding (s : State) : Bool := s.engine == .busy && s.lastOp == 2#2

/-- A COMPRESS is running: `STATE = BUSY` and the last command started is `OP = 1` (R24). -/
def State.encoding (s : State) : Bool := s.engine == .busy && s.lastOp == 1#2

end Sys2Proof.Machine
end

