-- ==== Sys2Proof/Machine/Memory.lean ====
section
/-! DEFINITION. Reading and writing a buffer, its canonical form, and reading a run of bytes (R60, R69, R73). -/

namespace Sys2Proof.Machine

/-- The byte at an address; none where nothing has been written since reset (R271). -/
def Memory.read : Memory → Nat → Option Byte
  | [], _ => none
  | (x, b) :: m, a => if x = a then some b else Memory.read m a

/-- Write a byte, keeping the addresses strictly rising. -/
def Memory.write : Memory → Nat → Byte → Memory
  | [], a, v => [(a, v)]
  | (x, b) :: m, a, v =>
    if a < x then (a, v) :: (x, b) :: m
    else if a = x then (a, v) :: m
    else (x, b) :: Memory.write m a v

/-- Every cell's address is at least `lo`, and addresses strictly rise. -/
def Memory.risingFrom : Nat → Memory → Bool
  | _, [] => true
  | lo, (x, _) :: m => decide (lo ≤ x) && Memory.risingFrom (x + 1) m

/-- The canonical form of a buffer: addresses strictly rise (an unlisted address has no value, so no entry can equal
what an unlisted address reads as). -/
def Memory.wf (m : Memory) : Bool := Memory.risingFrom 0 m

/-- Every cell's address lies below `cap` (R60: the addresses of a space). -/
def Memory.below (cap : Nat) (m : Memory) : Bool := m.all (fun c => decide (c.1 < cap))

/-- The `n` bytes at `a .. a + n - 1` (R9's `MemRead(_, a, n)`); none if one of them has no value. One walk along the
cells, the same bytes as `n` single reads where the buffer is in canonical form. -/
def Memory.readRun : Memory → Nat → Nat → Option (List Byte)
  | _, _, 0 => some []
  | [], _, _ + 1 => none
  | (x, b) :: m, a, n + 1 =>
    if x < a then Memory.readRun m a (n + 1)
    else if x = a then (Memory.readRun m (a + 1) n).map (b :: ·)
    else none

/-- `n` single reads at `a .. a + n - 1`, in ascending order (R69): what `Memory.readRun` computes. -/
def Memory.readEach (m : Memory) (a : Nat) : Nat → Option (List Byte)
  | 0 => some []
  | n + 1 =>
    match m.read a with
    | none => none
    | some b => (Memory.readEach m (a + 1) n).map (b :: ·)

end Sys2Proof.Machine
end

