-- ==== Sys2Proof/Machine/Ops.lean ====
section
/-! DEFINITION. The shared operations: sequencing, the error entry and its clearing, the start and the end of a
command, appending to OUT, and the back-reference copy. -/

namespace Sys2Proof.Machine

/-- Go on with the next state, or stop as the first part stopped. -/
def andThen (o : Answer) (f : State → Answer) : Answer :=
  match o with
  | .next s => f s
  | .fault r => .fault r
  | .refused r => .refused r

/-! ### The error entry and its clearing -/

/-- The error entry (R247): `ERR`, `FAULT_IP`, `FAULT_POS`, `OUT_LEN` and `STATUS.STATE` are written and every other
register keeps its value. -/
def takeError (c : Cause) (s : State) : State :=
  { s with
    err := errWord c
    faultIp := s.ip.setWidth 32
    faultPos := if s.dstate = .tag ∨ s.dstate = .item then s.pos.setWidth 32 else 0
    outLen := 0
    status := statusSetState s.status .error }

/-- The only return from an error short of a reset: the start of a command clears what the entry recorded
(R250; R170, R200). -/
def clearError (s : State) : State :=
  { s with err := 0, outLen := 0, faultIp := 0, faultPos := 0 }

/-! ### The start and the end of a command -/

/-- The part of a command's start that both commands share: `STATUS`, the cleared registers, `STRICT_L` and `OLEN`
(R170, R200). -/
def beginCommand (op : BitVec 2) (s : State) : State :=
  { clearError s with
    status := statusStart s.status op .busy
    strictL := s.strict
    olen := 0 }

/-- The start of DECOMPRESS (R170). -/
def startDecompress (s : State) : State :=
  { beginCommand 2#2 s with
    ip := 0
    outBase := 0
    pos := 0
    chunkEnd := 0
    size := 0
    cflag := false
    tag := 0
    idx := 0
    dstate := .hdr }

/-- The start of COMPRESS (R200). -/
def startCompress (s : State) : State :=
  { beginCommand 1#2 s with
    sliceBase := 0
    sliceLen := 0
    epos := 0
    candLen := 0
    etagAt := 0
    eidx := 8#4
    estate := .slice }

/-- `finish()` of DECOMPRESS (R178). -/
def finishDecompress (s : State) : State :=
  { s with outLen := s.olen, dstate := .done, status := statusSetState s.status .done }

/-- `finish()` of COMPRESS (R206). -/
def finishCompress (s : State) : State :=
  { s with outLen := s.olen, estate := .done, status := statusSetState s.status .done }

/-- `IN[0 .. IN_LEN - 1]` and `OUT[0 .. OUT_CAP - 1]` share storage in the host's address space (R76, R280; entry 7).
DESIGN CHOICE (entry 30), unsafe: bytes of IN at or above IN_LEN are not tested. Where they share storage with OUT the
command runs, and the model keeps the two buffers apart. -/
def State.buffersShare (s : State) : Bool :=
  decide (0 < s.inLen.toNat) && (decide (0 < s.outCap.toNat) &&
    (decide (s.inHostBase < s.outHostBase + s.outCap.toNat) &&
      decide (s.outHostBase < s.inHostBase + s.inLen.toNat)))

/-- A host write of `CMD` acts only while the engine is not BUSY (R22, R278, D24). -/
def whenNotBusy (s : State) (a : Answer) : Answer :=
  if s.engine = .busy then .refused .hostWriteWhileBusy else a

/-- A command starts only where IN and OUT share no storage (R76, R280, D17). -/
def whenBuffersApart (s : State) (a : Answer) : Answer :=
  if s.buffersShare then .refused .buffersShareStorage else a

/-- The host has loaded the input: every byte of `IN[0 .. IN_LEN - 1]` has been written since reset (R275 step 2). -/
def State.inputLoaded (s : State) : Bool := (s.inBuf.readRun 0 s.inLen.toNat).isSome

/-- A command starts only on an input that the host has loaded (R275 step 2; entry 5). -/
def whenInputLoaded (s : State) (a : Answer) : Answer :=
  if s.inputLoaded then a else .refused .inputNotLoaded

/-- A command starts on a loaded input in buffers that share no storage (R275, R280). -/
def whenCommandMayStart (s : State) (a : Answer) : Answer :=
  whenNotBusy s (whenBuffersApart s (whenInputLoaded s a))

/-! ### Appending and copying -/

/-- The state after `Append(OUT, b)`: the byte at `OLEN`, which then grows by 1 (R9, R62). IN keeps its bytes (R61;
entry 30). -/
def putOut (b : Byte) (s : State) : State :=
  { s with outBuf := s.outBuf.write s.olen.toNat b, olen := s.olen + 1 }

/-- `Append(OUT, b)`, refused at or beyond OUT_CAP (R62, R78, D5). -/
def append (b : Byte) (s : State) : Answer :=
  if s.outCap.toNat ≤ s.olen.toNat then .refused .outputFull else .next (putOut b s)

/-- Append bytes in ascending order, one at a time (R69). -/
def appendAll : List Byte → State → Answer
  | [], s => .next s
  | b :: bs, s => andThen (append b s) (appendAll bs)

/-- The loop of `copy(d, L)`: `L` times, the byte at `OUT[OLEN - d]` is appended, so that each read sees the bytes the
same copy has appended (R144, R77, R276). -/
def copyBytes (d : Nat) : Nat → State → Answer
  | 0, s => .next s
  | k + 1, s =>
    if s.olen.toNat < d then .fault .engineAccess
    else
      match s.outBuf.read (s.olen.toNat - d) with
      | none => .fault .engineAccess
      | some b => andThen (append b s) (copyBytes d k)

/-! ### Places -/

/-- A meaning runs only where its token stands (R90, R102; entry 10). -/
def inPlace (here : Bool) (a : Answer) : Answer :=
  if here then a else .refused .outOfPlace

end Sys2Proof.Machine
end

