-- ==== Sys2Proof/Machine/Command.lean ====
section
/-! DEFINITION. The commands: a host write of CMD (R22, R105, R170, R200). Bits 31:2 of the word are ignored. -/

namespace Sys2Proof.Machine

/-- CMD.NOP: no effect (R22). -/
def execCmdNop (_ : BitVec 30) (s : State) : Answer :=
  whenNotBusy s (.next s)

/-- CMD.COMPRESS: the encoder starts (R200, R275). -/
def execCmdCompress (_ : BitVec 30) (s : State) : Answer :=
  whenCommandMayStart s (.next (startCompress s))

/-- CMD.DECOMPRESS: the decoder starts (R170, R275). -/
def execCmdDecompress (_ : BitVec 30) (s : State) : Answer :=
  whenCommandMayStart s (.next (startDecompress s))

/-- CMD.RSVD: accepted and ignored (R22, R103, D25). -/
def execCmdRsvd (_ : BitVec 30) (s : State) : Answer :=
  whenNotBusy s (.next s)

end Sys2Proof.Machine
end

