-- ==== Sys2Proof/WellFormed.lean ====
section
/-! DEFINITION. Which terms of Instr are tokens of the format: the checks that the fields' widths do not make. -/

namespace Sys2Proof

/-- A raw payload has 1 to 4096 bytes (R92, R101); a non-standard header has a signature other than `0b011` and is not
the end marker's word 0x0000 (R93); every other field value is a token (R98, R100, R105). -/
def Instr.wellFormed : Instr → Bool
  | .endMark => true
  | .hdrR _ => true
  | .hdrC _ => true
  | .hdrRNs sig sizeM1 => sig != 3#3 && !(sig == 0#3 && sizeM1 == 0#12)
  | .hdrCNs sig _ => sig != 3#3
  | .raw payload => decide (1 ≤ payload.length) && decide (payload.length ≤ 4096)
  | .tag _ => true
  | .lit _ => true
  | .refO4 _ _ => true
  | .refO5 _ _ => true
  | .refO6 _ _ => true
  | .refO7 _ _ => true
  | .refO8 _ _ => true
  | .refO9 _ _ => true
  | .refO10 _ _ => true
  | .refO11 _ _ => true
  | .refO12 _ _ => true
  | .cmdNop _ => true
  | .cmdCompress _ => true
  | .cmdDecompress _ => true
  | .cmdRsvd _ => true

end Sys2Proof
end

