-- ==== Sys2Proof/Decode.lean ====
section
/-! DEFINITION. The BitFieldCalculator (R130, R131), the decoder of a token at its place (R90 to R102), the encoder,
and the decoding of an opcode-table word. -/

namespace Sys2Proof

/-- `bit_length(x)`: the number of binary digits of `x` (R8). -/
def bitLength (x : Nat) : Nat := if x = 0 then 0 else Nat.log2 x + 1

/-- `bfc(position)`: the offset-bit width of a back-reference that starts at `position` (R130). -/
def bfc (position : Nat) : Nat := max 4 (min 12 (bitLength (max (position - 1) 1)))

/-- `length_bits(position)` (R131). -/
def lengthBits (position : Nat) : Nat := 16 - bfc position

/-- The low byte of a 16-bit field, the one at the lower address (R10, R65). -/
def loByte (h : Half) : Byte := h.extractLsb' 0 8

/-- The high byte of a 16-bit field, the one at the next address (R10, R65). -/
def hiByte (h : Half) : Byte := h.extractLsb' 8 8

/-- `LE16(b0, b1)`: the first byte in memory is bits 7:0 (R9, R10). -/
def le16 (b0 b1 : Byte) : Half := b1 ++ b0

/-- A 32-bit word from four bytes, the first being bits 7:0. -/
def le32 (b0 b1 b2 b3 : Byte) : Word := b3 ++ b2 ++ b1 ++ b0

/-- The four bytes of a `CMD` word, bits 7:0 first: how the encoder writes a command out.
DESIGN CHOICE (entry 14), safe: the block holds the word whole and no state holds these bytes. -/
def wordBytes (w : Word) : List Byte :=
  [w.extractLsb' 0 8, w.extractLsb' 8 8, w.extractLsb' 16 8, w.extractLsb' 24 8]

/-- The header word with is_compressed `c`, signature `sig` and `SIZE_M1` (R91). -/
def hdrWord (c : BitVec 1) (sig : BitVec 3) (sizeM1 : BitVec 12) : Half := c ++ sig ++ sizeM1

/-- Classification of a header word: the zero word first, then the signature (R93). -/
def decodeHeader (h : Half) : Instr :=
  let sizeM1 := h.extractLsb' 0 12
  let sig := h.extractLsb' 12 3
  let c := h.extractLsb' 15 1
  if h = 0#16 then .endMark
  else if sig = 3#3 then
    if c = 1#1 then .hdrC sizeM1 else .hdrR sizeM1
  else if c = 1#1 then .hdrCNs sig sizeM1 else .hdrRNs sig sizeM1

/-- The back-reference word `f` split at the width of the position where it stands: `DISP_M1` high, `LEN_M3` low
(R97, R98, R100). -/
def decodeRef (pos : Nat) (f : Half) : Instr :=
  match bfc pos with
  | 4 => .refO4 (f.extractLsb' 12 4) (f.extractLsb' 0 12)
  | 5 => .refO5 (f.extractLsb' 11 5) (f.extractLsb' 0 11)
  | 6 => .refO6 (f.extractLsb' 10 6) (f.extractLsb' 0 10)
  | 7 => .refO7 (f.extractLsb' 9 7) (f.extractLsb' 0 9)
  | 8 => .refO8 (f.extractLsb' 8 8) (f.extractLsb' 0 8)
  | 9 => .refO9 (f.extractLsb' 7 9) (f.extractLsb' 0 7)
  | 10 => .refO10 (f.extractLsb' 6 10) (f.extractLsb' 0 6)
  | 11 => .refO11 (f.extractLsb' 5 11) (f.extractLsb' 0 5)
  | _ => .refO12 (f.extractLsb' 4 12) (f.extractLsb' 0 4)

/-- The command a host write of `CMD` gives: bits 1:0 are `OP`, bits 31:2 are ignored by the block (R22, R105). -/
def decodeCmd (w : Word) : Instr :=
  match (w.extractLsb' 0 2).toNat with
  | 0 => .cmdNop (w.extractLsb' 2 30)
  | 1 => .cmdCompress (w.extractLsb' 2 30)
  | 2 => .cmdDecompress (w.extractLsb' 2 30)
  | _ => .cmdRsvd (w.extractLsb' 2 30)

/-- The token that the bytes hold at a place, with the bytes after it (R90, R102). -/
def decode (p : Place) (bytes : List Byte) : Decoded :=
  match p with
  | .command =>
    match bytes with
    | b0 :: b1 :: b2 :: b3 :: rest => .token (decodeCmd (le32 b0 b1 b2 b3)) rest
    | _ => .rejected .shortCommand
  | .header =>
    match bytes with
    | b0 :: b1 :: rest => .token (decodeHeader (le16 b0 b1)) rest
    | _ => .rejected .shortHeader
  | .raw size =>
    if size < 1 || 4096 < size then .rejected .badRawSize
    else if bytes.length < size then .rejected .shortRaw
    else .token (.raw (bytes.take size)) (bytes.drop size)
  | .tag =>
    match bytes with
    | t :: rest => .token (.tag t) rest
    | [] => .rejected .shortTag
  | .literal =>
    match bytes with
    | b :: rest => .token (.lit b) rest
    | [] => .rejected .shortLiteral
  | .reference pos =>
    match bytes with
    | b0 :: b1 :: rest => .token (decodeRef pos (le16 b0 b1)) rest
    | _ => .rejected .shortReference

/-- The two bytes of a 16-bit field in memory order (R10). -/
def halfBytes (h : Half) : List Byte := [loByte h, hiByte h]

/-- The bytes of an instruction in stream order (R91, R95 to R101); a command's are those of its `CMD` word (R105). -/
def encode : Instr → List Byte
  | .endMark => halfBytes 0#16
  | .hdrR m => halfBytes (hdrWord 0#1 3#3 m)
  | .hdrC m => halfBytes (hdrWord 1#1 3#3 m)
  | .hdrRNs sig m => halfBytes (hdrWord 0#1 sig m)
  | .hdrCNs sig m => halfBytes (hdrWord 1#1 sig m)
  | .raw payload => payload
  | .tag t => [t]
  | .lit b => [b]
  | .refO4 d l => halfBytes (d ++ l)
  | .refO5 d l => halfBytes (d ++ l)
  | .refO6 d l => halfBytes (d ++ l)
  | .refO7 d l => halfBytes (d ++ l)
  | .refO8 d l => halfBytes (d ++ l)
  | .refO9 d l => halfBytes (d ++ l)
  | .refO10 d l => halfBytes (d ++ l)
  | .refO11 d l => halfBytes (d ++ l)
  | .refO12 d l => halfBytes (d ++ l)
  | .cmdNop r => wordBytes (r ++ 0#2)
  | .cmdCompress r => wordBytes (r ++ 1#2)
  | .cmdDecompress r => wordBytes (r ++ 2#2)
  | .cmdRsvd r => wordBytes (r ++ 3#2)

/-- The places where an instruction may stand (R90, R100, R105). -/
def Instr.standsAt : Instr → Place → Bool
  | .endMark, p => p == .header
  | .hdrR _, p => p == .header
  | .hdrC _, p => p == .header
  | .hdrRNs _ _, p => p == .header
  | .hdrCNs _ _, p => p == .header
  | .raw payload, p => p == .raw payload.length
  | .tag _, p => p == .tag
  | .lit _, p => p == .literal
  | .refO4 _ _, .reference pos => bfc pos == 4
  | .refO5 _ _, .reference pos => bfc pos == 5
  | .refO6 _ _, .reference pos => bfc pos == 6
  | .refO7 _ _, .reference pos => bfc pos == 7
  | .refO8 _ _, .reference pos => bfc pos == 8
  | .refO9 _ _, .reference pos => bfc pos == 9
  | .refO10 _ _, .reference pos => bfc pos == 10
  | .refO11 _ _, .reference pos => bfc pos == 11
  | .refO12 _ _, .reference pos => bfc pos == 12
  | .cmdNop _, p => p == .command
  | .cmdCompress _, p => p == .command
  | .cmdDecompress _, p => p == .command
  | .cmdRsvd _, p => p == .command
  | _, _ => false

/-- The place a word of the opcode table is read at when nothing but its width is known: a row of one byte or of four
is read as a `CMD` word, a row of two bytes as a header. DESIGN CHOICE (entry 12): the table's tag, literal and
back-reference rows have no fixed bits, and only the decoder's state tells them apart (R102). -/
def tablePlace (nbits : Nat) : Option Place :=
  if 1 ≤ nbits && nbits ≤ 8 then some .command
  else if 9 ≤ nbits && nbits ≤ 16 then some .header
  else if 17 ≤ nbits && nbits ≤ 32 then some .command
  else none

/-- The instruction the decoder reads from an opcode-table word (bit 0 least significant, R7). -/
def decodeTableWord (nbits w : Nat) : Option Instr :=
  match tablePlace nbits with
  | none => none
  | some p =>
    match decode p (wordBytes (BitVec.ofNat 32 w)) with
    | .token i _ => some i
    | .rejected _ => none

end Sys2Proof
end

