-- ==== Sys2Proof/Machine/Operands.lean ====
section
/-! DEFINITION. Operand assembly (R92, R98, R99), the conditions under which a token's bytes are there (R246), and
where each token stands (R90, R141, the table's contexts). -/

namespace Sys2Proof.Machine

/-- `SIZE = SIZE_M1 + 1`, 1 to 4096 (R92, R175). -/
def chunkSize (sizeM1 : BitVec 12) : BitVec 13 := sizeM1.setWidth 13 + 1

/-- `displacement = DISP_M1 + 1` (R98). -/
def displacementOf {w : Nat} (dispM1 : BitVec w) : Nat := dispM1.toNat + 1

/-- `length = LEN_M3 + 3` (R98). -/
def lengthOf {w : Nat} (lenM3 : BitVec w) : Nat := lenM3.toNat + 3

/-- The word of a back-reference with displacement `d` and length `l` at slice position `p` (R99, R149). -/
def refWord (p d l : Nat) : Half :=
  BitVec.ofNat 16 (((d - 1) <<< lengthBits p) ||| (l - 3))

/-- A header token stands here: a header is due and its two bytes are inside the input (R90, R171, R172). -/
def State.atHeader (s : State) : Bool :=
  s.decoding && (s.dstate == .hdr && decide (s.ip.toNat + 2 ≤ s.inLen.toNat))

/-- A raw payload of `n` bytes stands here (R90, R101). -/
def State.atRaw (s : State) (n : Nat) : Bool :=
  s.decoding && (s.dstate == .raw && n == s.size.toNat)

/-- A tag byte stands here (R90, R140). -/
def State.atTag (s : State) : Bool :=
  s.decoding && (s.dstate == .tag && s.ip != s.chunkEnd)

/-- An item stands here: the group is not full and the budget not spent (R141). -/
def State.atItem (s : State) : Bool :=
  s.decoding && (s.dstate == .item && (decide (s.idx.toNat < 8) && s.ip != s.chunkEnd))

/-- A literal stands here (R141, R142). -/
def State.atLiteral (s : State) : Bool := s.atItem && !s.tagBit

/-- A back-reference of `ob` offset bits stands here (R141, R143). -/
def State.atRef (s : State) (ob : Nat) : Bool :=
  s.atItem && (s.tagBit && bfc s.pos.toNat == ob)

/-- Why a raw payload's bytes are not there (R176, R246). -/
def rawTruncated (s : State) : Option Cause :=
  if s.inLen.toNat < s.chunkEnd.toNat then some .shortRaw else none

/-- Why a tag byte or a literal is not there (R140, R142, R246). -/
def byteTruncated (s : State) : Option Cause :=
  if s.inLen.toNat ≤ s.ip.toNat then some .inputEnded else none

/-- Why a back-reference's two bytes are not there, the chunk's end before the input's (R143, R246). -/
def refTruncated (s : State) : Option Cause :=
  if s.chunkEnd.toNat < s.ip.toNat + 2 then some .straddle
  else if s.inLen.toNat < s.ip.toNat + 2 then some .inputEnded
  else none

/-- Raise the error where there is one, before any write of the step, else go on (R247, R248). -/
def checkedBy (c : Option Cause) (s : State) (a : Answer) : Answer :=
  match c with
  | some cause => .next (takeError cause s)
  | none => a

/-- The legality of a back-reference's values at `POS`, in the order of R143 (R243, R246). -/
def refMalformed (d l : Nat) (s : State) : Option Cause :=
  if d = 0 then some .zeroDisplacement
  else if s.pos.toNat < d then some .farDisplacement
  else if 4096 < s.pos.toNat + l then some .tooLong
  else none

/-- The legality of a literal at `POS` (R142, R243). -/
def litMalformed (s : State) : Option Cause :=
  if 4096 ≤ s.pos.toNat then some .chunkFull else none

end Sys2Proof.Machine
end

