-- ==== Sys2Proof/Machine/Header.lean ====
section
/-! DEFINITION. The chunk header tokens: END, HDR.R, HDR.C, HDR.R.NS, HDR.C.NS (R173, R174, R175). -/

namespace Sys2Proof.Machine

/-- Chunk setup and dispatch (R175): the payload's size and end, an empty window at `OLEN`, and the payload's kind. -/
def chunkSetup (compressed : Bool) (sizeM1 : BitVec 12) (s : State) : State :=
  { s with
    size := chunkSize sizeM1
    cflag := compressed
    ip := s.ip + 2
    chunkEnd := s.ip + 2 + (chunkSize sizeM1).setWidth 33
    pos := 0
    outBase := s.olen
    dstate := if compressed then .tag else .raw }

/-- Signature check (R174): under `STRICT_L` a signature other than `0b011` is InvalidHeader. -/
def signatureError (sig : BitVec 3) (s : State) : Option Cause :=
  if s.strictL ∧ sig ≠ 3#3 then some .badSignature else none

/-- END: the end marker ends the stream, and the bytes after it are not read (R173, R178). -/
def execEndMark (s : State) : Answer :=
  inPlace s.atHeader (.next (finishDecompress { s with ip := s.ip + 2 }))

/-- HDR.R: a conformant raw header (R175). -/
def execHdrR (sizeM1 : BitVec 12) (s : State) : Answer :=
  inPlace s.atHeader (.next (chunkSetup false sizeM1 s))

/-- HDR.C: a conformant compressed header (R175). -/
def execHdrC (sizeM1 : BitVec 12) (s : State) : Answer :=
  inPlace s.atHeader (.next (chunkSetup true sizeM1 s))

/-- HDR.R.NS: InvalidHeader when strict, else decoded as HDR.R (R174, R175, D7). -/
def execHdrRNs (sig : BitVec 3) (sizeM1 : BitVec 12) (s : State) : Answer :=
  inPlace s.atHeader (checkedBy (signatureError sig s) s (.next (chunkSetup false sizeM1 s)))

/-- HDR.C.NS: InvalidHeader when strict, else decoded as HDR.C (R174, R175, D7). -/
def execHdrCNs (sig : BitVec 3) (sizeM1 : BitVec 12) (s : State) : Answer :=
  inPlace s.atHeader (checkedBy (signatureError sig s) s (.next (chunkSetup true sizeM1 s)))

end Sys2Proof.Machine
end

