-- ==== Sys2Proof/Machine/Raw.lean ====
section
/-! DEFINITION. The raw payload token RAW (R176). -/

namespace Sys2Proof.Machine

/-- RAW: the payload is appended in ascending order, after one check that the input holds all of it (R176). -/
def execRaw (payload : List Byte) (s : State) : Answer :=
  inPlace (s.atRaw payload.length)
    (checkedBy (rawTruncated s) s
      (andThen (appendAll payload s) fun t =>
        .next { t with pos := t.size, ip := t.chunkEnd, dstate := .hdr }))

end Sys2Proof.Machine
end

