-- ==== Sys2Proof/Machine/TagGroup.lean ====
section
/-! DEFINITION. The tokens of a compressed payload: TAG, LIT and the nine back-references (R140, R142, R143, R144). -/

namespace Sys2Proof.Machine

/-- TAG: the control byte opens a group (R140). -/
def execTag (t : Byte) (s : State) : Answer :=
  inPlace s.atTag
    (checkedBy (byteTruncated s) s
      (.next { s with tag := t, ip := s.ip + 1, idx := 0, dstate := .item }))

/-- LIT: one byte is appended (R142). -/
def execLit (b : Byte) (s : State) : Answer :=
  inPlace s.atLiteral
    (checkedBy (byteTruncated s) s
      (checkedBy (litMalformed s) s
        (andThen (append b s) fun t =>
          .next { t with pos := t.pos + 1, ip := t.ip + 1, idx := t.idx + 1 })))

/-- A back-reference of `ob` offset bits with displacement `d` and length `l`: every check precedes the copy
(R143, R144, R277). -/
def backReference (ob d l : Nat) (s : State) : Answer :=
  inPlace (s.atRef ob)
    (checkedBy (refTruncated s) s
      (checkedBy (refMalformed d l s) s
        (andThen (copyBytes d l s) fun t =>
          .next { t with pos := t.pos + BitVec.ofNat 13 l, ip := t.ip + 2, idx := t.idx + 1 })))

/-- REF.O4 (R100, R143). -/
def execRefO4 (dispM1 : BitVec 4) (lenM3 : BitVec 12) (s : State) : Answer :=
  backReference 4 (displacementOf dispM1) (lengthOf lenM3) s

/-- REF.O5 (R100, R143). -/
def execRefO5 (dispM1 : BitVec 5) (lenM3 : BitVec 11) (s : State) : Answer :=
  backReference 5 (displacementOf dispM1) (lengthOf lenM3) s

/-- REF.O6 (R100, R143). -/
def execRefO6 (dispM1 : BitVec 6) (lenM3 : BitVec 10) (s : State) : Answer :=
  backReference 6 (displacementOf dispM1) (lengthOf lenM3) s

/-- REF.O7 (R100, R143). -/
def execRefO7 (dispM1 : BitVec 7) (lenM3 : BitVec 9) (s : State) : Answer :=
  backReference 7 (displacementOf dispM1) (lengthOf lenM3) s

/-- REF.O8 (R100, R143). -/
def execRefO8 (dispM1 : BitVec 8) (lenM3 : BitVec 8) (s : State) : Answer :=
  backReference 8 (displacementOf dispM1) (lengthOf lenM3) s

/-- REF.O9 (R100, R143). -/
def execRefO9 (dispM1 : BitVec 9) (lenM3 : BitVec 7) (s : State) : Answer :=
  backReference 9 (displacementOf dispM1) (lengthOf lenM3) s

/-- REF.O10 (R100, R143). -/
def execRefO10 (dispM1 : BitVec 10) (lenM3 : BitVec 6) (s : State) : Answer :=
  backReference 10 (displacementOf dispM1) (lengthOf lenM3) s

/-- REF.O11 (R100, R143). -/
def execRefO11 (dispM1 : BitVec 11) (lenM3 : BitVec 5) (s : State) : Answer :=
  backReference 11 (displacementOf dispM1) (lengthOf lenM3) s

/-- REF.O12 (R100, R143). -/
def execRefO12 (dispM1 : BitVec 12) (lenM3 : BitVec 4) (s : State) : Answer :=
  backReference 12 (displacementOf dispM1) (lengthOf lenM3) s

end Sys2Proof.Machine
end

