-- ==== Sys2Proof/Machine/Dispatch.lean ====
section
/-! DEFINITION. One arm per instruction, each a call of its meaning. -/

namespace Sys2Proof.Machine

def exec (i : Instr) (s : State) : Host.Outcome State Fault Refusal :=
  match i with
  | .endMark => Sys2Proof.Machine.execEndMark s
  | .hdrR sizeM1 => Sys2Proof.Machine.execHdrR sizeM1 s
  | .hdrC sizeM1 => Sys2Proof.Machine.execHdrC sizeM1 s
  | .hdrRNs sig sizeM1 => Sys2Proof.Machine.execHdrRNs sig sizeM1 s
  | .hdrCNs sig sizeM1 => Sys2Proof.Machine.execHdrCNs sig sizeM1 s
  | .raw payload => Sys2Proof.Machine.execRaw payload s
  | .tag t => Sys2Proof.Machine.execTag t s
  | .lit b => Sys2Proof.Machine.execLit b s
  | .refO4 dispM1 lenM3 => Sys2Proof.Machine.execRefO4 dispM1 lenM3 s
  | .refO5 dispM1 lenM3 => Sys2Proof.Machine.execRefO5 dispM1 lenM3 s
  | .refO6 dispM1 lenM3 => Sys2Proof.Machine.execRefO6 dispM1 lenM3 s
  | .refO7 dispM1 lenM3 => Sys2Proof.Machine.execRefO7 dispM1 lenM3 s
  | .refO8 dispM1 lenM3 => Sys2Proof.Machine.execRefO8 dispM1 lenM3 s
  | .refO9 dispM1 lenM3 => Sys2Proof.Machine.execRefO9 dispM1 lenM3 s
  | .refO10 dispM1 lenM3 => Sys2Proof.Machine.execRefO10 dispM1 lenM3 s
  | .refO11 dispM1 lenM3 => Sys2Proof.Machine.execRefO11 dispM1 lenM3 s
  | .refO12 dispM1 lenM3 => Sys2Proof.Machine.execRefO12 dispM1 lenM3 s
  | .cmdNop ignored => Sys2Proof.Machine.execCmdNop ignored s
  | .cmdCompress ignored => Sys2Proof.Machine.execCmdCompress ignored s
  | .cmdDecompress ignored => Sys2Proof.Machine.execCmdDecompress ignored s
  | .cmdRsvd ignored => Sys2Proof.Machine.execCmdRsvd ignored s

end Sys2Proof.Machine
end

