-- ==== Sys2Proof/Machine/Encoder.lean ====
section
/-! DEFINITION. The encoder's steps (43_chunk_encoder.md), the match finder (44_match_finder.md) and the packing of an
item into CAND (R150). They are no rows of the opcode table: a running COMPRESS takes them. -/

namespace Sys2Proof.Machine

/-! ### The match finder -/

/-- An item of a slice (R146): a literal, or a back-reference chosen at position `p`. -/
inductive Item where
  | lit (b : Byte)
  | ref (p d l : Nat)
  deriving DecidableEq, Repr

/-- `maxlen(p)`: the longest length the encoder may emit at `p` in a slice of `n` bytes (R221). -/
def maxLen (n p : Nat) : Nat := min (n - p) (2 ^ (16 - bfc p) + 2)

/-- How many bytes, at most `cap`, two byte strings share at their start (R222). -/
def matchLen : Nat → List Byte → List Byte → Nat
  | 0, _, _ => 0
  | cap + 1, x :: xs, y :: ys => if x = y then matchLen cap xs ys + 1 else 0
  | _ + 1, _, _ => 0

/-- `ML(p, d)`: the match length at displacement `d`, which may run past `p` (R222). -/
def matchAt (bytes : List Byte) (p d : Nat) : Nat :=
  matchLen (maxLen bytes.length p) (bytes.drop (p - d)) (bytes.drop p)

/-- The candidates in increasing displacement, from the bytes before `p` nearest first: a candidate replaces the best
(displacement, length) so far only when it is strictly longer (R223). `source` starts where the candidate before
started, so that each candidate's source is one byte longer. -/
def searchMatch (cap : Nat) (target : List Byte) : List Byte → List Byte → Nat → Nat × Nat → Nat × Nat
  | [], _, _, best => best
  | b :: before, source, d, best =>
    let l := matchLen cap (b :: source) target
    searchMatch cap target before (b :: source) (d + 1) (if best.2 < l then (d, l) else best)

/-- The nearest of the longest matches at `p`, as (displacement, length); length 0 when there is none (R223). -/
def bestMatch (bytes : List Byte) (p : Nat) : Nat × Nat :=
  searchMatch (maxLen bytes.length p) (bytes.drop p) (bytes.take p).reverse (bytes.drop p) 1 (0, 0)

/-- The item chosen at `p` (R223, R224); none at or beyond the slice's end. -/
def chooseItem (bytes : List Byte) (p : Nat) : Option Item :=
  match bytes.drop p with
  | [] => none
  | b :: _ =>
    if 3 ≤ (bestMatch bytes p).2 then some (.ref p (bestMatch bytes p).1 (bestMatch bytes p).2)
    else some (.lit b)

/-- How many bytes an item covers (R224). -/
def Item.length : Item → Nat
  | .lit _ => 1
  | .ref _ _ l => l

/-- The cursor's advance (R224), and the covered positions entering the index (R44). -/
def advance (n : Nat) (s : State) : State :=
  { s with
    epos := s.epos + BitVec.ofNat 13 n
    mfIndex := ((List.range n).map (s.epos.toNat + ·)).reverse ++ s.mfIndex }

/-! ### Packing an item -/

/-- Write the next byte of the candidate payload (R150); CAND has 4608 bytes (R43). -/
def pushCand (b : Byte) (s : State) : Answer :=
  if 4608 ≤ s.candLen.toNat then .fault .engineAccess
  else .next { s with cand := s.cand.write s.candLen.toNat b, candLen := s.candLen + 1 }

/-- Open a new group where none is open: its tag byte is 0 so far (R150). -/
def openGroup (s : State) : Answer :=
  if s.eidx = 8#4 then
    andThen (pushCand 0 { s with etagAt := s.candLen }) fun t => .next { t with eidx := 0 }
  else .next s

/-- Set the tag bit of the item being added (R147, R150). -/
def setTagBit (s : State) : Answer :=
  match s.cand.read s.etagAt.toNat with
  | none => .fault .engineAccess
  | some t => .next { s with cand := s.cand.write s.etagAt.toNat (t ||| (1#8 <<< s.eidx.toNat)) }

/-- Write the item's own bytes, a back-reference's tag bit first (R148, R149, R150). -/
def packItem (it : Item) (s : State) : Answer :=
  match it with
  | .lit b => pushCand b s
  | .ref p d l =>
    andThen (setTagBit s) fun t =>
      andThen (pushCand (loByte (refWord p d l)) t) (pushCand (hiByte (refWord p d l)))

/-- `add_item` (R150). -/
def addItem (it : Item) (s : State) : Answer :=
  andThen (openGroup s) fun t =>
    andThen (packItem it t) fun u => .next { u with eidx := u.eidx + 1 }

/-! ### The steps -/

/-- The slice's bytes (R64, R201), as the host loaded them. -/
def withSlice (s : State) (f : List Byte → Answer) : Answer :=
  if s.inLen.toNat < s.sliceBase.toNat + s.sliceLen.toNat then .fault .engineAccess
  else
    match s.inBuf.readRun s.sliceBase.toNat s.sliceLen.toNat with
    | none => .refused .inputNotLoaded
    | some bytes => f bytes

/-- The slice step (R202): the next slice, or the end of the command. -/
def sliceStep (s : State) : Answer :=
  if s.sliceBase = s.inLen then .next (finishCompress s)
  else if s.inLen.toNat < s.sliceBase.toNat then .fault .brokenDatapath
  else
    .next { s with
      sliceLen := BitVec.ofNat 13 (min 4096 (s.inLen.toNat - s.sliceBase.toNat))
      epos := 0
      candLen := 0
      eidx := 8#4
      mfIndex := []
      estate := .item }

/-- The item step (R203): one item, or the end of the items. -/
def itemStep (s : State) : Answer :=
  if s.epos = s.sliceLen then .next { s with estate := .emit }
  else
    withSlice s fun bytes =>
      match chooseItem bytes s.epos.toNat with
      | none => .fault .brokenDatapath
      | some it => addItem it (advance it.length s)

/-- `emit_chunk(c, n, payload)` (R205), `n` being the payload's length. -/
def emitChunk (c : BitVec 1) (payload : List Byte) (s : State) : Answer :=
  appendAll (halfBytes (hdrWord c 3#3 (BitVec.ofNat 12 (payload.length - 1))) ++ payload) s

/-- On to the next slice (R204). -/
def nextSlice (s : State) : Answer :=
  .next { s with sliceBase := s.sliceBase + s.sliceLen.setWidth 32, estate := .slice }

/-- The emit step (R204): raw where compression did not shrink the slice, else compressed. -/
def emitStep (s : State) : Answer :=
  if s.sliceLen.toNat = 0 ∨ 4096 < s.sliceLen.toNat ∨ s.candLen.toNat = 0 then .fault .brokenDatapath
  else if s.sliceLen.toNat ≤ s.candLen.toNat then
    withSlice s fun bytes => andThen (emitChunk 0#1 bytes s) nextSlice
  else
    match s.cand.readRun 0 s.candLen.toNat with
    | none => .fault .engineAccess
    | some bytes => andThen (emitChunk 1#1 bytes s) nextSlice

/-- One step of a running COMPRESS (D22). -/
def encoderStep (s : State) : Answer :=
  match s.estate with
  | .slice => sliceStep s
  | .item => itemStep s
  | .emit => emitStep s
  | .idle => .fault .brokenDatapath
  | .done => .fault .brokenDatapath

end Sys2Proof.Machine
end

