-- ==== Sys2Proof/Machine/Fetch.lean ====
section
/-! DEFINITION. What the next step is: the decoder's fetch of a token and its steps that read none (R141, R171, R172,
R177), and the host's accesses (R21 to R30, R60, R270). -/

namespace Sys2Proof.Machine

/-- What the next step is: an instruction to execute in a state, or a step that executes none. -/
inductive Fetched where
  | instr (i : Instr) (s : State)
  | other (a : Answer)
  deriving Repr

/-! ### The decoder -/

/-- Fetch the token of `n` bytes at `IP` for the place `p`: only bytes below IN_LEN are read (R61), and each must have
been loaded (R275). -/
def fetchToken (p : Place) (n : Nat) (s : State) : Fetched :=
  if s.inLen.toNat < s.ip.toNat + n then .other (.fault .engineAccess)
  else
    match s.inBuf.readRun s.ip.toNat n with
    | none => .other (.refused .inputNotLoaded)
    | some bytes =>
      match decode p bytes with
      | .token i _ => .instr i s
      | .rejected r => .other (.fault (.rejected r))

/-- Raise the error where the token's bytes are not there (R246), else fetch it. -/
def fetchUnless (c : Option Cause) (s : State) (f : Fetched) : Fetched :=
  match c with
  | some cause => .other (.next (takeError cause s))
  | none => f

/-- A header is due (R171 to R173): the end of the input, a lone byte, or two bytes of a header. -/
def fetchHeader (s : State) : Fetched :=
  if s.ip.toNat = s.inLen.toNat then .other (.next (finishDecompress s))
  else if s.ip.toNat + 1 = s.inLen.toNat then .other (.next (takeError .loneByte s))
  else fetchToken .header 2 s

/-- A raw payload is due (R176). -/
def fetchRaw (s : State) : Fetched :=
  fetchUnless (rawTruncated s) s (fetchToken (.raw s.size.toNat) s.size.toNat s)

/-- A tag byte is due, or the chunk's budget is spent (R140, R177). -/
def fetchTag (s : State) : Fetched :=
  if s.ip = s.chunkEnd then .other (.next { s with dstate := .hdr })
  else fetchUnless (byteTruncated s) s (fetchToken .tag 1 s)

/-- Item dispatch (R141). -/
def fetchItem (s : State) : Fetched :=
  if s.idx = 8#4 then .other (.next { s with dstate := .tag })
  else if s.ip = s.chunkEnd then .other (.next { s with dstate := .hdr })
  else if 8 < s.idx.toNat then .other (.fault .brokenDatapath)
  else if s.tagBit then
    fetchUnless (refTruncated s) s (fetchToken (.reference s.pos.toNat) 2 s)
  else fetchUnless (byteTruncated s) s (fetchToken .literal 1 s)

/-- The next step of a running DECOMPRESS (D22). -/
def fetchDecoder (s : State) : Fetched :=
  match s.dstate with
  | .hdr => fetchHeader s
  | .raw => fetchRaw s
  | .tag => fetchTag s
  | .item => fetchItem s
  | .idle => .other (.fault .brokenDatapath)
  | .done => .other (.fault .brokenDatapath)

/-- The engine's next step: none while it is not BUSY (R247, R272), else the running command's. -/
def fetchEngine (s : State) : Fetched :=
  if s.engine = .busy then
    if s.lastOp = 2#2 then fetchDecoder s
    else if s.lastOp = 1#2 then .other (encoderStep s)
    else .other (.fault .brokenDatapath)
  else .other (.next s)

/-! ### The host -/

/-- The host address of register `n`, in units of registers (R21, R60, R71). DESIGN CHOICE (entry 8): the spec does
not say how far apart two registers lie. -/
def State.registerAddress (s : State) (n : Nat) : Nat := s.regBase + n

/-- The number of the register at a host address; none below REG_BASE (R21, R71). A host that addresses the block
through its map acts on the register of this number. -/
def State.registerAt (s : State) (a : Nat) : Option Nat :=
  if s.regBase ≤ a then some (a - s.regBase) else none

/-- What register `n` reads as, outside R279: reserved fields, CMD and registers 8 and up read 0 (R21 to R30). -/
def regValue (n : Nat) (s : State) : Word :=
  match n with
  | 1 => s.cfg &&& 0x1#32
  | 2 => s.status &&& 0xF#32
  | 3 => s.err &&& 0xF3#32
  | 4 => s.inLen
  | 5 => s.outLen
  | 6 => s.faultIp
  | 7 => s.faultPos &&& 0x1FFF#32
  | _ => 0#32

/-- The host is given a word. -/
def giveHost (w : Word) (s : State) : State := { s with hostData := w }

/-- The host is given any value: the next free byte, drawn afresh (93, treatment "any value"). -/
def giveFreeByte (s : State) : State :=
  { s with hostData := (Config.freeByte s.draws).setWidth 32, draws := s.draws + 1 }

/-- The host is given any word, drawn afresh. -/
def giveFreeWord (s : State) : State :=
  { s with hostData := Config.freeWord s.draws, draws := s.draws + 1 }

/-- A host read of register `n`: OUT_LEN while BUSY reads any value, every other read is exact (R27, R279). -/
def readRegister (n : Nat) (s : State) : State :=
  if n = 5 ∧ s.engine = .busy then giveFreeWord s else giveHost (regValue n s) s

/-- A host write of a register other than CMD: CFG keeps bit 0 (R23), IN_LEN is at most IN_CAP (R26), neither is
written while BUSY (R278), and every other register ignores writes (R21, R30). -/
def writeRegister (n : Nat) (v : Word) (s : State) : Answer :=
  match n with
  | 1 => whenNotBusy s (.next { s with cfg := v &&& 0x1#32 })
  | 4 =>
    whenNotBusy s
      (if s.inCap.toNat < v.toNat then .refused .inLenOverCap else .next { s with inLen := v })
  | _ => .next s

/-- The host loads a byte of IN, not while BUSY (R60, R278). OUT keeps its bytes, also where the two share storage
(DESIGN CHOICE, entry 30, unsafe). -/
def loadInput (a : Word) (b : Byte) (s : State) : Answer :=
  if s.inCap.toNat ≤ a.toNat then .fault .noSuchAddress
  else whenNotBusy s (.next { s with inBuf := s.inBuf.write a.toNat b })

/-- A host read of IN: any value before the byte is written after reset (R60, R271, I7). -/
def readInput (a : Word) (s : State) : Answer :=
  if s.inCap.toNat ≤ a.toNat then .fault .noSuchAddress
  else
    match s.inBuf.read a.toNat with
    | some b => .next (giveHost (b.setWidth 32) s)
    | none => .next (giveFreeByte s)

/-- A host read of OUT: the result's bytes after DONE, any value in every other case (R74, R249, R271, I7 to I10). -/
def readOutput (a : Word) (s : State) : Answer :=
  if s.outCap.toNat ≤ a.toNat then .fault .noSuchAddress
  else if s.engine = .done ∧ a.toNat < s.outLen.toNat then
    match s.outBuf.read a.toNat with
    | some b => .next (giveHost (b.setWidth 32) s)
    | none => .next (giveFreeByte s)
  else .next (giveFreeByte s)

/-- Reset (R270): the state after reset, a running command abandoned; the block's parameters and what belongs to the
host stay (entry 18). -/
def resetBlock (s : State) : State :=
  { State.reset with
    inCap := s.inCap
    outCap := s.outCap
    inHostBase := s.inHostBase
    outHostBase := s.outHostBase
    regBase := s.regBase
    host := s.host
    hostData := s.hostData
    draws := s.draws }

/-- One host action (R11, R21). A write of CMD is an instruction (R22, R105); `wait` leaves the step to the engine. -/
def fetchHost (act : HostAction) (s : State) : Fetched :=
  match act with
  | .wait => fetchEngine s
  | .writeReg 0 v => .instr (decodeCmd v) s
  | .writeReg (n + 1) v => .other (writeRegister (n + 1) v s)
  | .readReg n => .other (.next (readRegister n s))
  | .loadIn a b => .other (loadInput a b s)
  | .readIn a => .other (readInput a s)
  | .readOut a => .other (readOutput a s)
  | .reset => .other (.next (resetBlock s))

/-- The next step: the host's oldest pending action, else the engine's (entry 2). -/
def fetch (s : State) : Fetched :=
  match s.host with
  | [] => fetchEngine s
  | act :: rest => fetchHost act { s with host := rest }

/-! ### Placing a word for the next step -/

/-- A write of CMD as the host's next action: the next step executes that command. -/
def placeCommand (w : Word) (s : State) : State :=
  { s with host := .writeReg 0 w :: s.host }

/-- The two bytes of a header at IP, inside the input, with the decoder waiting for a header and the host letting the
engine step: the next step executes that header. -/
def placeHeader (h : Half) (s : State) : State :=
  { s with
    host := .wait :: s.host
    status := statusStart s.status 2#2 .busy
    dstate := .hdr
    inLen := BitVec.ofNat 32 (max s.inLen.toNat (s.ip.toNat + 2))
    inBuf := (s.inBuf.write s.ip.toNat (loByte h)).write (s.ip.toNat + 1) (hiByte h) }

end Sys2Proof.Machine
end

