-- ==== Sys2Proof/Machine/Step.lean ====
section
/-! DEFINITION. One step of the machine, and placing an opcode-table word where the next step runs it. -/

namespace Sys2Proof.Machine

/-- One step: fetch what comes next and execute it (D22; entry 2). -/
def step (s : State) : Host.Outcome State Fault Refusal :=
  match fetch s with
  | .instr i t => exec i t
  | .other a => a

/-- The state in which the very next step runs the opcode-table word (entry 12): a word read at the command place
is written to CMD, a word read at the header place stands at IP. -/
def State.withFetchWord (s : State) (nbits w : Nat) : State :=
  match tablePlace nbits with
  | some .command => placeCommand (BitVec.ofNat 32 w) s
  | some .header => placeHeader (BitVec.ofNat 16 w) s
  | _ => s

end Sys2Proof.Machine
end

