-- ==== Sys2Proof/Safety.lean ====
section
/-! DEFINITION. What a good state is, in the terms the claims use: the buffers' canonical form, the registers' reserved
bits, and the datapath values that a run produces (10_state.md, 20_memory.md, 41 to 43). -/

namespace Sys2Proof.Machine

/-- Each buffer is in canonical form and lies within its address space (R60, R43). -/
def State.buffersWf (s : State) : Bool :=
  s.inBuf.wf && s.inBuf.below s.inCap.toNat && s.outBuf.wf && s.outBuf.below s.outCap.toNat
    && s.cand.wf && s.cand.below 4608

/-- The reserved bits of the interface registers are 0 (R23, R24, R25, R29, R30), IN_LEN is within IN_CAP (R26), and a
running engine runs one of the two commands (R24). -/
def State.registersWf (s : State) : Bool :=
  s.cfg &&& 0xFFFFFFFE#32 == 0#32 && s.status &&& 0xFFFFFFF0#32 == 0#32 && s.err &&& 0xFFFFFF0C#32 == 0#32
    && s.faultPos &&& 0xFFFFE000#32 == 0#32 && decide (s.inLen.toNat ≤ s.inCap.toNat)
    && (s.engine != .busy || s.lastOp == 1#2 || s.lastOp == 2#2)

/-- Every byte at `a .. a + n - 1` has a value. -/
def Memory.listed (m : Memory) (a n : Nat) : Prop := ∀ k, k < n → (m.read (a + k)).isSome = true

/-- The decoder's registers while a compressed chunk is open (R33, R36, R63). -/
def State.chunkOpen (s : State) : Prop :=
  s.ip.toNat ≤ s.chunkEnd.toNat ∧ s.chunkEnd.toNat ≤ s.inLen.toNat + 4096
    ∧ s.olen.toNat = s.outBase.toNat + s.pos.toNat

/-- The decoder's registers, by state (R31 to R37): what holds between the steps of a DECOMPRESS. -/
def State.decoderInv (s : State) : Prop :=
  s.ip.toNat ≤ s.inLen.toNat ∧ s.pos.toNat ≤ 4096 ∧ s.olen.toNat ≤ s.outCap.toNat ∧ s.outBuf.listed 0 s.olen.toNat ∧
    match s.dstate with
    | .idle => False
    | .hdr => True
    | .raw => 1 ≤ s.size.toNat ∧ s.size.toNat ≤ 4096 ∧ s.chunkEnd.toNat = s.ip.toNat + s.size.toNat
    | .tag => s.chunkOpen
    | .item => s.chunkOpen ∧ s.idx.toNat ≤ 8
    | .done => False

/-- The encoder's registers while a slice is open (R41 to R43): the candidate's bound keeps it within CAND's 4608
bytes (R151). -/
def State.sliceOpen (s : State) : Prop :=
  1 ≤ s.sliceLen.toNat ∧ s.sliceLen.toNat ≤ 4096 ∧ s.sliceBase.toNat + s.sliceLen.toNat ≤ s.inLen.toNat
    ∧ s.epos.toNat ≤ s.sliceLen.toNat ∧ s.eidx.toNat ≤ 8
    ∧ 8 * s.candLen.toNat + s.eidx.toNat ≤ 9 * s.epos.toNat + 8
    ∧ (0 < s.epos.toNat → 1 ≤ s.candLen.toNat)
    ∧ (s.eidx.toNat < 8 → s.etagAt.toNat < s.candLen.toNat)
    ∧ s.cand.listed 0 s.candLen.toNat

/-- The encoder's registers, by state (R39 to R43): what holds between the steps of a COMPRESS. -/
def State.encoderInv (s : State) : Prop :=
  s.sliceBase.toNat ≤ s.inLen.toNat ∧ s.olen.toNat ≤ s.outCap.toNat ∧
    match s.estate with
    | .idle => False
    | .slice => True
    | .item => s.sliceOpen
    | .emit => s.sliceOpen ∧ s.epos = s.sliceLen
    | .done => False

/-- The invariant of a run: what every state reached from reset by any host actions satisfies. While a command runs
its input is loaded (R275, R278). -/
def State.Inv (s : State) : Prop :=
  s.buffersWf = true ∧ s.registersWf = true ∧ (s.decoding = true → s.decoderInv)
    ∧ (s.encoding = true → s.encoderInv) ∧ (s.engine = .busy → s.inputLoaded = true)

/-- While a slice is open the index holds its covered positions, each once, nearest first, and nothing else
(R44, R226, R281; the form is the model's own, entry 13). -/
def State.indexCovers (s : State) : Prop :=
  s.estate = .item ∨ s.estate = .emit → s.mfIndex = (List.range s.epos.toNat).reverse

/-- The bytes of a command's result: `OUT[0 .. OUT_LEN - 1]` (R27, R62). -/
def State.result (s : State) : Option (List Byte) := s.outBuf.readRun 0 s.outLen.toNat

/-- The host has loaded the input `x` and written its length (R275 step 2). -/
def State.inputIs (s : State) (x : List Byte) : Prop :=
  s.inLen.toNat = x.length ∧ s.inBuf.readRun 0 x.length = some x

/-- The place and the length in bytes of the token the decoder executes next, where its bytes are there (R90, R102,
R141, R246). -/
def State.tokenDue (s : State) : Option (Place × Nat) :=
  if s.atHeader then some (.header, 2)
  else if s.atRaw s.size.toNat && rawTruncated s == none then some (.raw s.size.toNat, s.size.toNat)
  else if s.atTag && byteTruncated s == none then some (.tag, 1)
  else if s.atLiteral && byteTruncated s == none then some (.literal, 1)
  else if s.atRef (bfc s.pos.toNat) && refTruncated s == none then some (.reference s.pos.toNat, 2)
  else none

/-- The offset bits, displacement and length of a back-reference (R98, R100). -/
def refOperands : Instr → Option (Nat × Nat × Nat)
  | .refO4 d l => some (4, displacementOf d, lengthOf l)
  | .refO5 d l => some (5, displacementOf d, lengthOf l)
  | .refO6 d l => some (6, displacementOf d, lengthOf l)
  | .refO7 d l => some (7, displacementOf d, lengthOf l)
  | .refO8 d l => some (8, displacementOf d, lengthOf l)
  | .refO9 d l => some (9, displacementOf d, lengthOf l)
  | .refO10 d l => some (10, displacementOf d, lengthOf l)
  | .refO11 d l => some (11, displacementOf d, lengthOf l)
  | .refO12 d l => some (12, displacementOf d, lengthOf l)
  | _ => none

/-- The state an error leaves, with `ERR` and `FAULT_POS` given: R247 in full. -/
def failed (err faultPos : Word) (s : State) : State :=
  { s with
    err := err
    faultIp := s.ip.setWidth 32
    faultPos := faultPos
    outLen := 0
    status := statusSetState s.status .error }

/-- Every register at the value R270's table gives it, as the host reads it (CMD reads 0) and in the datapath, and no
byte of a buffer with a value (R271). -/
def State.atReset (t : State) : Prop :=
  (∀ n, regValue n t = 0) ∧ t.cfg = 0 ∧ t.status = 0 ∧ t.err = 0 ∧ t.inLen = 0 ∧ t.outLen = 0 ∧ t.faultIp = 0
    ∧ t.faultPos = 0 ∧ t.engine = .idle ∧ t.lastOp = 0 ∧ t.dstate = .idle ∧ t.estate = .idle ∧ t.ip = 0
    ∧ t.chunkEnd = 0 ∧ t.size = 0 ∧ t.cflag = false ∧ t.pos = 0 ∧ t.olen = 0 ∧ t.outBase = 0 ∧ t.tag = 0 ∧ t.idx = 0
    ∧ t.strictL = false ∧ t.sliceBase = 0 ∧ t.sliceLen = 0 ∧ t.epos = 0 ∧ t.candLen = 0 ∧ t.etagAt = 0 ∧ t.eidx = 0
    ∧ t.mfIndex = [] ∧ ∀ a, t.inBuf.read a = none ∧ t.outBuf.read a = none ∧ t.cand.read a = none

/-- The command has ended: `STATUS.STATE` is DONE or ERROR (R11). -/
def State.ended (s : State) : Bool := s.engine == .done || s.engine == .error

end Sys2Proof.Machine
end

