-- ==== Sys2Proof/Certificates/Slice0/Obligations.lean ====
section
/-! DEFINITION. The statements for the provers. Each docstring says which rule of the spec it formalises. -/

open Sys2Proof Sys2Proof.Machine

/-! ### The bit-field calculator and the encodings -/

/-- R8: `bit_length(x)` is the least `k` with `x < 2^k`, with the rule's four values. -/
def Obligations.BitLengthIsLeast : Prop :=
  (∀ x : Nat, 1 ≤ x → x < 2 ^ bitLength x ∧ ∀ k, x < 2 ^ k → bitLength x ≤ k) ∧
    bitLength 1 = 1 ∧ bitLength 15 = 4 ∧ bitLength 16 = 5 ∧ bitLength 0x800 = 12

/-- R131, R132: the table of `offset_bits` and `length_bits` at every position of a chunk. -/
def Obligations.BfcFollowsTable : Prop :=
  ∀ p : Nat, p ≤ 4096 →
    lengthBits p = 16 - bfc p ∧ 4 ≤ lengthBits p ∧ lengthBits p ≤ 12 ∧
    (p ≤ 16 → bfc p = 4 ∧ lengthBits p = 12) ∧
    (17 ≤ p → p ≤ 32 → bfc p = 5 ∧ lengthBits p = 11) ∧
    (33 ≤ p → p ≤ 64 → bfc p = 6 ∧ lengthBits p = 10) ∧
    (65 ≤ p → p ≤ 128 → bfc p = 7 ∧ lengthBits p = 9) ∧
    (129 ≤ p → p ≤ 256 → bfc p = 8 ∧ lengthBits p = 8) ∧
    (257 ≤ p → p ≤ 512 → bfc p = 9 ∧ lengthBits p = 7) ∧
    (513 ≤ p → p ≤ 1024 → bfc p = 10 ∧ lengthBits p = 6) ∧
    (1025 ≤ p → p ≤ 2048 → bfc p = 11 ∧ lengthBits p = 5) ∧
    (2049 ≤ p → bfc p = 12 ∧ lengthBits p = 4)

/-- R98: the two bytes of a back-reference at any position decode to its displacement and length, unsigned and
unscaled, with their ranges; a decoded displacement is never 0. -/
def Obligations.BackReferenceOperands : Prop :=
  ∀ (pos f lb : Nat) (b0 b1 : Byte) (rest : List Byte), f = b0.toNat + 256 * b1.toNat → lb = 16 - bfc pos →
    (∃ i, decode (.reference pos) (b0 :: b1 :: rest) = .token i rest ∧
      refOperands i = some (bfc pos, (f >>> lb) + 1, (f &&& ((1 <<< lb) - 1)) + 3)) ∧
    (f >>> lb) + 1 ≠ 0 ∧ (f >>> lb) + 1 ≤ 2 ^ bfc pos ∧ (f &&& ((1 <<< lb) - 1)) + 3 ≤ 2 ^ lb + 2

/-- Decode and encode agree, every row of the table: a well-formed instruction's bytes, at a place where it may stand
and with any bytes after them, decode to it and leave the rest. -/
def Obligations.DecodeOfEncode : Prop :=
  ∀ (i : Instr) (p : Place) (rest : List Byte), i.wellFormed = true → i.standsAt p = true →
    decode p (encode i ++ rest) = .token i rest

/-- The other direction: whatever the decoder accepts at a place is a well-formed instruction that may stand there,
and the bytes it consumed are exactly the instruction's encoding. No two words share an instruction, and no bit read
is dropped. -/
def Obligations.EncodeOfDecode : Prop :=
  ∀ (p : Place) (bytes rest : List Byte) (i : Instr), decode p bytes = .token i rest →
    bytes = encode i ++ rest ∧ i.wellFormed = true ∧ i.standsAt p = true

/-- The classification of a header word, in the order of R93: the zero word, then the signature, then bit 15. -/
def Obligations.HeaderClassification : Prop :=
  ∀ h : Half,
    (h = 0x0000#16 → decodeHeader h = .endMark) ∧
    (h ≠ 0x0000#16 → h.extractLsb' 12 3 = 3#3 →
      (h.getLsbD 15 = true → decodeHeader h = .hdrC (h.extractLsb' 0 12)) ∧
      (h.getLsbD 15 = false → decodeHeader h = .hdrR (h.extractLsb' 0 12))) ∧
    (h ≠ 0x0000#16 → h.extractLsb' 12 3 ≠ 3#3 →
      (h.getLsbD 15 = true → decodeHeader h = .hdrCNs (h.extractLsb' 12 3) (h.extractLsb' 0 12)) ∧
      (h.getLsbD 15 = false → decodeHeader h = .hdrRNs (h.extractLsb' 12 3) (h.extractLsb' 0 12)))

/-- R91: the two bytes of a header in memory, by field, and the ranges of a conformant header's second byte. -/
def Obligations.HeaderBytes : Prop :=
  ∀ (sig : BitVec 3) (m : BitVec 12),
    encode (.hdrRNs sig m) =
      [BitVec.ofNat 8 (m.toNat % 256), BitVec.ofNat 8 (sig.toNat * 16 + m.toNat / 256)] ∧
    encode (.hdrCNs sig m) =
      [BitVec.ofNat 8 (m.toNat % 256), BitVec.ofNat 8 (128 + sig.toNat * 16 + m.toNat / 256)] ∧
    encode (.hdrR m) = [BitVec.ofNat 8 (m.toNat % 256), BitVec.ofNat 8 (0x30 + m.toNat / 256)] ∧
    encode (.hdrC m) = [BitVec.ofNat 8 (m.toNat % 256), BitVec.ofNat 8 (0xB0 + m.toNat / 256)] ∧
    m.toNat / 256 ≤ 0xF

/-- Words of the spec's encodings and what they decode to (L2.2, L2.4, L2.7 of the test vectors). -/
def Obligations.SampleWordsDecode : Prop :=
  decode .header [0x00#8, 0x00#8] = .token .endMark [] ∧
  decode .header [0xFF#8, 0x3F#8] = .token (.hdrR 4095#12) [] ∧
  decode .header [0x0C#8, 0xB0#8] = .token (.hdrC 12#12) [] ∧
  decode .header [0xBC#8, 0x4A#8] = .token (.hdrRNs 4#3 0xABC#12) [] ∧
  decode .header [0x00#8, 0x80#8] = .token (.hdrCNs 0#3 0#12) [] ∧
  decode (.raw 3) [0x41#8, 0x42#8, 0x43#8] = .token (.raw [0x41#8, 0x42#8, 0x43#8]) [] ∧
  decode .tag [0x0C#8] = .token (.tag 0x0C#8) [] ∧
  decode .literal [0x61#8] = .token (.lit 0x61#8) [] ∧
  decode (.reference 16) [0x0D#8, 0xF0#8] = .token (.refO4 15#4 13#12) [] ∧
  decode (.reference 17) [0x00#8, 0x80#8] = .token (.refO5 16#5 0#11) [] ∧
  decode (.reference 2049) [0x0F#8, 0x80#8] = .token (.refO12 2048#12 15#4) [] ∧
  decodeCmd 0xFFFFFFF6#32 = .cmdDecompress 0x3FFFFFFD#30

/-! ### Running tokens and commands -/

/-- A step runs the decoded token: when a running decoder has a token due and its bytes at IP decode to an
instruction, the step is exec of it, in the state itself where no host action is pending, and in the state without
the `wait` where the host leaves the step to the engine. -/
def Obligations.StepRunsToken : Prop :=
  ∀ (s : State) (p : Place) (n : Nat) (bytes rest : List Byte) (i : Instr),
    s.tokenDue = some (p, n) → s.ip.toNat + n ≤ s.inLen.toNat →
    s.inBuf.readRun s.ip.toNat n = some bytes → decode p bytes = .token i rest → i.wellFormed = true →
    (s.host = [] → step s = exec i s) ∧
    (∀ q, s.host = .wait :: q → step s = exec i { s with host := q })

/-- A step runs the command of a pending host write of CMD, in the state without that action. -/
def Obligations.StepRunsCommand : Prop :=
  ∀ (s : State) (w : Word) (q : List HostAction), s.host = .writeReg 0 w :: q →
    decode .command (wordBytes w) = .token (decodeCmd w) [] ∧
    step s = exec (decodeCmd w) { s with host := q }

/-- R90, R102: the step never executes a token out of its place, and no instruction is without a meaning. -/
def Obligations.TokensStandInPlace : Prop :=
  (∀ s : State, step s ≠ .refused .outOfPlace) ∧ ∀ (s : State) (m : String), step s ≠ .refused (.notModelled m)

/-- R171, R172: at a header place, the end of the input completes the command and a lone byte is TruncatedInput 1 at
its own offset. -/
def Obligations.EndOfInputAtHeader : Prop :=
  ∀ s : State, s.host = [] → s.decoding = true → s.dstate = .hdr →
    (s.ip.toNat = s.inLen.toNat →
      step s = .next { s with
        outLen := s.olen
        dstate := .done
        status := statusSetState s.status .done }) ∧
    (s.ip.toNat + 1 = s.inLen.toNat → step s = .next (failed 0x11#32 0#32 s))

/-- R173: END completes the command two bytes on; the step that reads a zero header word is END whatever the bytes
after it are. -/
def Obligations.EndMarkerCompletes : Prop :=
  ∀ s : State, s.atHeader = true →
    (s.host = [] → s.inBuf.readRun s.ip.toNat 2 = some [0#8, 0#8] → step s = exec .endMark s) ∧
    exec .endMark s = .next { s with
      ip := s.ip + 2
      outLen := s.olen
      dstate := .done
      status := statusSetState s.status .done }

/-- R175: chunk setup and dispatch. First HDR.R and HDR.C by their fields, in any strictness; then every header word
that reaches the rule (not zero, and conformant or read without STRICT_L), by its bits. -/
def Obligations.ConformantHeadersOpenChunk : Prop :=
  (∀ (s : State) (m : BitVec 12), s.atHeader = true →
    exec (.hdrR m) s = .next { s with
      size := BitVec.ofNat 13 (m.toNat + 1)
      cflag := false
      ip := s.ip + 2
      chunkEnd := s.ip + 2 + BitVec.ofNat 33 (m.toNat + 1)
      pos := 0
      outBase := s.olen
      dstate := .raw } ∧
    exec (.hdrC m) s = .next { s with
      size := BitVec.ofNat 13 (m.toNat + 1)
      cflag := true
      ip := s.ip + 2
      chunkEnd := s.ip + 2 + BitVec.ofNat 33 (m.toNat + 1)
      pos := 0
      outBase := s.olen
      dstate := .tag }) ∧
  ∀ (s : State) (h : Half), s.atHeader = true → h ≠ 0x0000#16 →
    (h.extractLsb' 12 3 = 3#3 ∨ s.strictL = false) →
    exec (decodeHeader h) s = .next { s with
      size := BitVec.ofNat 13 (h.toNat % 4096 + 1)
      cflag := h.getLsbD 15
      ip := s.ip + 2
      chunkEnd := s.ip + 2 + BitVec.ofNat 33 (h.toNat % 4096 + 1)
      pos := 0
      outBase := s.olen
      dstate := if h.getLsbD 15 then .tag else .raw }

/-- R174: under STRICT_L a signature other than `0b011` is InvalidHeader 1 at the header's offset; without it the
header goes on to chunk setup by its bit 15 and size (R175's writes, in full). No conformant header is rejected: that
is the other statement's equation, which has no condition on STRICT_L. -/
def Obligations.NonStandardHeaders : Prop :=
  ∀ (s : State) (sig : BitVec 3) (m : BitVec 12), s.atHeader = true → sig ≠ 3#3 →
    (s.strictL = true →
      exec (.hdrRNs sig m) s = .next (failed 0x12#32 0#32 s) ∧
      exec (.hdrCNs sig m) s = .next (failed 0x12#32 0#32 s)) ∧
    (s.strictL = false →
      exec (.hdrRNs sig m) s = .next { s with
        size := BitVec.ofNat 13 (m.toNat + 1)
        cflag := false
        ip := s.ip + 2
        chunkEnd := s.ip + 2 + BitVec.ofNat 33 (m.toNat + 1)
        pos := 0
        outBase := s.olen
        dstate := .raw } ∧
      exec (.hdrCNs sig m) s = .next { s with
        size := BitVec.ofNat 13 (m.toNat + 1)
        cflag := true
        ip := s.ip + 2
        chunkEnd := s.ip + 2 + BitVec.ofNat 33 (m.toNat + 1)
        pos := 0
        outBase := s.olen
        dstate := .tag })

/-- R176: a raw payload. One check that the input holds it, before any byte is copied; then its bytes stand from OLEN
on, in order, POS is SIZE, IP is CHUNK_END, and a header is due. -/
def Obligations.RawPayloadIsCopied : Prop :=
  ∀ (s : State) (payload : List Byte), s.atRaw payload.length = true →
    (s.host = [] → s.inLen.toNat < s.chunkEnd.toNat → step s = .next (failed 0x21#32 0#32 s)) ∧
    (s.host = [] → s.chunkEnd.toNat ≤ s.inLen.toNat → s.ip.toNat + payload.length ≤ s.inLen.toNat →
      (Instr.raw payload).wellFormed = true → s.inBuf.readRun s.ip.toNat payload.length = some payload →
      step s = exec (.raw payload) s) ∧
    (s.inLen.toNat < s.chunkEnd.toNat → exec (.raw payload) s = .next (failed 0x21#32 0#32 s)) ∧
    (s.chunkEnd.toNat ≤ s.inLen.toNat → s.olen.toNat + payload.length ≤ s.outCap.toNat →
      ∃ t, exec (.raw payload) s = .next t ∧
        t = { s with
          outBuf := t.outBuf
          olen := s.olen + BitVec.ofNat 32 payload.length
          pos := s.size
          ip := s.chunkEnd
          dstate := .hdr } ∧
        ∀ a, t.outBuf.read a =
          if s.olen.toNat ≤ a ∧ a < s.olen.toNat + payload.length then payload[a - s.olen.toNat]?
          else s.outBuf.read a)

/-- R140: a tag step. A spent budget ends the chunk, a missing byte is TruncatedInput 3, and the control byte opens a
group. -/
def Obligations.TagStep : Prop :=
  ∀ (s : State) (t : Byte), s.decoding = true → s.dstate = .tag →
    (s.host = [] → s.ip = s.chunkEnd → step s = .next { s with dstate := .hdr }) ∧
    (s.ip ≠ s.chunkEnd → s.inLen.toNat ≤ s.ip.toNat →
      (s.host = [] → step s = .next (failed 0x31#32 (s.pos.setWidth 32) s)) ∧
      exec (.tag t) s = .next (failed 0x31#32 (s.pos.setWidth 32) s)) ∧
    (s.ip ≠ s.chunkEnd → s.ip.toNat < s.inLen.toNat →
      (s.host = [] → s.inBuf.readRun s.ip.toNat 1 = some [t] → step s = exec (.tag t) s) ∧
      exec (.tag t) s = .next { s with
        tag := t
        ip := s.ip + 1
        idx := 0
        dstate := .item })

/-- R141: item dispatch, in the rule's order. A full group and a spent budget consume nothing; else the tag bit of
the item chooses the step LIT or the step REF, its operand being the bytes at IP where they are there (where they are
not, the step is that of any operand: R142's and R143's error). -/
def Obligations.ItemDispatch : Prop :=
  ∀ s : State, s.host = [] → s.decoding = true → s.dstate = .item → s.idx.toNat ≤ 8 →
    (s.idx = 8#4 → step s = .next { s with dstate := .tag }) ∧
    (s.idx ≠ 8#4 → s.ip = s.chunkEnd → step s = .next { s with dstate := .hdr }) ∧
    (s.idx ≠ 8#4 → s.ip ≠ s.chunkEnd → s.tag.getLsbD s.idx.toNat = false →
      ∀ b, (s.ip.toNat < s.inLen.toNat → s.inBuf.readRun s.ip.toNat 1 = some [b]) → step s = exec (.lit b) s) ∧
    (s.idx ≠ 8#4 → s.ip ≠ s.chunkEnd → s.tag.getLsbD s.idx.toNat = true →
      ∀ b0 b1, (s.ip.toNat + 2 ≤ s.chunkEnd.toNat → s.ip.toNat + 2 ≤ s.inLen.toNat →
        s.inBuf.readRun s.ip.toNat 2 = some [b0, b1]) → step s = exec (decodeRef s.pos.toNat (le16 b0 b1)) s)

/-- R142: a literal. The input's end, then the chunk's capacity, then one byte appended and the cursors advanced. -/
def Obligations.LiteralStep : Prop :=
  ∀ (s : State) (b : Byte), s.atLiteral = true →
    (s.inLen.toNat ≤ s.ip.toNat →
      (s.host = [] → step s = .next (failed 0x31#32 (s.pos.setWidth 32) s)) ∧
      exec (.lit b) s = .next (failed 0x31#32 (s.pos.setWidth 32) s)) ∧
    (s.ip.toNat < s.inLen.toNat →
      (s.host = [] → s.inBuf.readRun s.ip.toNat 1 = some [b] → step s = exec (.lit b) s) ∧
      (4096 ≤ s.pos.toNat → exec (.lit b) s = .next (failed 0x43#32 (s.pos.setWidth 32) s)) ∧
      (s.pos.toNat < 4096 → s.olen.toNat < s.outCap.toNat →
        exec (.lit b) s = .next { s with
          outBuf := s.outBuf.write s.olen.toNat b
          olen := s.olen + 1
          pos := s.pos + 1
          ip := s.ip + 1
          idx := s.idx + 1 }))

/-- R143, R144: the nine back-references REF.O4 to REF.O12, by their offset bits, displacement and length. The checks
come in the rule's order and each raises before anything is written; the copy repeats the last `d` bytes of the window
with period `d`. The premise `s.Inv` of the legal case is the run's invariant, stated on its own. -/
def Obligations.BackReferenceStep : Prop :=
  ∀ (s : State) (i : Instr) (ob d l : Nat), refOperands i = some (ob, d, l) → s.atRef ob = true →
    d ≠ 0 ∧ bfc s.pos.toNat = ob ∧
    (s.host = [] → s.chunkEnd.toNat < s.ip.toNat + 2 →
      step s = .next (failed 0x41#32 (s.pos.setWidth 32) s)) ∧
    (s.host = [] → s.ip.toNat + 2 ≤ s.chunkEnd.toNat → s.inLen.toNat < s.ip.toNat + 2 →
      step s = .next (failed 0x31#32 (s.pos.setWidth 32) s)) ∧
    (s.chunkEnd.toNat < s.ip.toNat + 2 → exec i s = .next (failed 0x41#32 (s.pos.setWidth 32) s)) ∧
    (s.ip.toNat + 2 ≤ s.chunkEnd.toNat → s.inLen.toNat < s.ip.toNat + 2 →
      exec i s = .next (failed 0x31#32 (s.pos.setWidth 32) s)) ∧
    (s.ip.toNat + 2 ≤ s.chunkEnd.toNat → s.ip.toNat + 2 ≤ s.inLen.toNat →
      (s.host = [] → ∀ b0 b1, s.inBuf.readRun s.ip.toNat 2 = some [b0, b1] →
        decodeRef s.pos.toNat (le16 b0 b1) = i → step s = exec i s) ∧
      (s.pos.toNat < d → exec i s = .next (failed 0x23#32 (s.pos.setWidth 32) s)) ∧
      (d ≤ s.pos.toNat → 4096 < s.pos.toNat + l →
        exec i s = .next (failed 0x33#32 (s.pos.setWidth 32) s)) ∧
      (d ≤ s.pos.toNat → s.pos.toNat + l ≤ 4096 → s.olen.toNat + l ≤ s.outCap.toNat → s.Inv →
        ∃ t, exec i s = .next t ∧
          t = { s with
            outBuf := t.outBuf
            olen := s.olen + BitVec.ofNat 32 l
            pos := s.pos + BitVec.ofNat 13 l
            ip := s.ip + 2
            idx := s.idx + 1 } ∧
          (∀ k, k < l → t.outBuf.read (s.outBase.toNat + s.pos.toNat + k) =
            s.outBuf.read (s.outBase.toNat + s.pos.toNat - d + k % d)) ∧
          (∀ k, k < l → t.outBuf.read (s.outBase.toNat + s.pos.toNat + k) =
            t.outBuf.read (s.outBase.toNat + s.pos.toNat + k - d)) ∧
          ∀ a, (a < s.olen.toNat ∨ s.olen.toNat + l ≤ a) → t.outBuf.read a = s.outBuf.read a))

/-- The copy loop alone, in any state whose last `d` bytes of OUT have values: it completes below OUT_CAP, each byte
read is the one the same copy may just have written, and the result has period `d`. -/
def Obligations.CopyIsByteSerial : Prop :=
  ∀ (s : State) (d l : Nat), 1 ≤ d → d ≤ s.olen.toNat → s.outBuf.listed (s.olen.toNat - d) d →
    s.olen.toNat + l ≤ s.outCap.toNat →
    ∃ t, copyBytes d l s = .next t ∧
      t = { s with outBuf := t.outBuf, olen := s.olen + BitVec.ofNat 32 l } ∧
      (∀ k, k < l → t.outBuf.read (s.olen.toNat + k) = t.outBuf.read (s.olen.toNat + k - d)) ∧
      (∀ k, k < l → t.outBuf.read (s.olen.toNat + k) = s.outBuf.read (s.olen.toNat - d + k % d))

/-- The tag bits of the items a short group does not hold have no effect (R145): once the budget is spent, two runs
that differ in TAG alone stay equal but for TAG, stop together and stop alike, for any number of steps. -/
def Obligations.AbsentTagBitsIgnored : Prop :=
  ∀ (s : State) (t : Byte) (k : Nat), s.host = [] → s.decoding = true → s.dstate = .item →
    s.ip = s.chunkEnd → s.idx.toNat ≤ 8 →
    match core.run k s, core.run k { s with tag := t } with
    | .next u, .next v => { u with tag := 0 } = { v with tag := 0 }
    | .fault q, .fault r => q = r
    | .refused q, .refused r => q = r
    | _, _ => False

/-- A token of a compressed chunk depends on no byte of OUT before the chunk (R63, R179): with OUT changed below
OUT_BASE only, LIT and the nine back-references answer alike, the registers are equal, and the bytes from OUT_BASE on
are equal. -/
def Obligations.ChunkIndependence : Prop :=
  ∀ (s u : State) (m : Memory) (i : Instr), ((∃ b, i = .lit b) ∨ (refOperands i).isSome = true) →
    s.olen.toNat = s.outBase.toNat + s.pos.toNat → s.pos.toNat ≤ 4096 →
    (∀ a, s.outBase.toNat ≤ a → m.read a = s.outBuf.read a) → exec i s = .next u →
    ∃ v, exec i { s with outBuf := m } = .next v ∧ v = { u with outBuf := v.outBuf } ∧
      ∀ a, s.outBase.toNat ≤ a → v.outBuf.read a = u.outBuf.read a

/-! ### Errors -/

/-- R247: the error entry. What it writes; that it is all a failing step writes, with FAULT_IP the IP at the start of
the step and FAULT_POS the POS in D_TAG and D_ITEM and 0 elsewhere; and that the engine takes no further step while
the host does nothing. -/
def Obligations.ErrorEntryIsPrecise : Prop :=
  (∀ (c : Cause) (s : State),
    takeError c s =
      failed (errWord c) (if s.dstate = .tag ∨ s.dstate = .item then s.pos.setWidth 32 else 0#32) s) ∧
  (∀ s t : State, s.host = [] → s.engine ≠ .error → step s = .next t → t.engine = .error →
    ∃ c : Cause,
      t = failed (errWord c) (if s.dstate = .tag ∨ s.dstate = .item then s.pos.setWidth 32 else 0#32) s) ∧
  (∀ s : State, s.host = [] → s.engine = .error → step s = .next s)

/-- The ERR words of the causes and their fields (R25, R240 to R243): the eight words a run can leave and the ninth,
of the unreachable zero displacement. -/
def Obligations.ErrorWords : Prop :=
  errWord .loneByte = 0x11#32 ∧ errWord .shortRaw = 0x21#32 ∧ errWord .inputEnded = 0x31#32 ∧
  errWord .straddle = 0x41#32 ∧ errWord .badSignature = 0x12#32 ∧ errWord .zeroDisplacement = 0x13#32 ∧
  errWord .farDisplacement = 0x23#32 ∧ errWord .tooLong = 0x33#32 ∧ errWord .chunkFull = 0x43#32 ∧
  ∀ c : Cause, (errWord c).extractLsb' 0 2 = c.code ∧ (errWord c).extractLsb' 4 4 = c.detail

/-- Only a running DECOMPRESS enters the error state, and never with the zero displacement's word (R240, R243, R244,
R208): not a COMPRESS, not a host access, not a write of CMD. -/
def Obligations.OnlyDecompressFails : Prop :=
  ∀ s t : State, step s = .next t → s.engine ≠ .error → t.engine = .error →
    s.decoding = true ∧ (s.host = [] ∨ ∃ q, s.host = .wait :: q) ∧
      t.err ∈ [0x11#32, 0x21#32, 0x31#32, 0x41#32, 0x12#32, 0x23#32, 0x33#32, 0x43#32]

/-- An error persists until the host starts a command or resets the block (R250). -/
def Obligations.ErrorPersists : Prop :=
  ∀ s t : State, s.engine = .error → step s = .next t →
    (∀ q, s.host ≠ .reset :: q) →
    (∀ w q, s.host = .writeReg 0 w :: q → w.extractLsb' 0 2 = 0#2 ∨ w.extractLsb' 0 2 = 3#2) →
    t.engine = .error ∧ t.err = s.err ∧ t.faultIp = s.faultIp ∧ t.faultPos = s.faultPos ∧ t.outLen = s.outLen

/-! ### Commands -/

/-- R22: a write of CMD acts on OP alone; NOP and the reserved OP change nothing, 1 and 2 are COMPRESS and
DECOMPRESS, any write while BUSY is refused, and CMD reads 0. -/
def Obligations.CommandRegister : Prop :=
  (∀ (s : State) (r : BitVec 30), s.engine ≠ .busy →
    exec (.cmdNop r) s = .next s ∧ exec (.cmdRsvd r) s = .next s) ∧
  (∀ (s : State) (w : Word) (q : List HostAction), s.host = .writeReg 0 w :: q →
    (s.engine = .busy → step s = .refused .hostWriteWhileBusy) ∧
    (s.engine ≠ .busy → w.extractLsb' 0 2 = 0#2 ∨ w.extractLsb' 0 2 = 3#2 →
      step s = .next { s with host := q }) ∧
    (w.extractLsb' 0 2 = 1#2 → step s = exec (.cmdCompress (w.extractLsb' 2 30)) { s with host := q }) ∧
    (w.extractLsb' 0 2 = 2#2 → step s = exec (.cmdDecompress (w.extractLsb' 2 30)) { s with host := q })) ∧
  (∀ (s : State) (q : List HostAction), s.host = .readReg 0 :: q →
    step s = .next { s with host := q, hostData := 0 })

/-- R170: the start of DECOMPRESS, every register it writes, on a loaded input in buffers apart (R275, R280); IN_LEN = 0
completes at once with an empty output. -/
def Obligations.DecompressStarts : Prop :=
  (∀ (s : State) (r : BitVec 30), s.engine ≠ .busy → s.buffersShare = false → s.inputLoaded = true →
    exec (.cmdDecompress r) s = .next { s with
      status := s.status.extractLsb' 4 28 ++ 2#2 ++ 1#2
      err := 0
      outLen := 0
      faultIp := 0
      faultPos := 0
      strictL := s.cfg.getLsbD 0
      ip := 0
      olen := 0
      outBase := 0
      pos := 0
      chunkEnd := 0
      size := 0
      cflag := false
      tag := 0
      idx := 0
      dstate := .hdr }) ∧
  (∀ (s : State) (r : BitVec 30), s.engine ≠ .busy → s.host = [] → s.inLen = 0 →
    ∃ t u, exec (.cmdDecompress r) s = .next t ∧ step t = .next u ∧ u.engine = .done ∧ u.outLen = 0)

/-- R200: the start of COMPRESS, every register it writes, on a loaded input in buffers apart (R275, R280); IN_LEN = 0
completes at once with OUT_LEN = 0. -/
def Obligations.CompressStarts : Prop :=
  (∀ (s : State) (r : BitVec 30), s.engine ≠ .busy → s.buffersShare = false → s.inputLoaded = true →
    exec (.cmdCompress r) s = .next { s with
      status := s.status.extractLsb' 4 28 ++ 1#2 ++ 1#2
      err := 0
      outLen := 0
      faultIp := 0
      faultPos := 0
      strictL := s.cfg.getLsbD 0
      olen := 0
      sliceBase := 0
      sliceLen := 0
      epos := 0
      candLen := 0
      etagAt := 0
      eidx := 8#4
      estate := .slice }) ∧
  (∀ (s : State) (r : BitVec 30), s.engine ≠ .busy → s.host = [] → s.inLen = 0 →
    ∃ t u, exec (.cmdCompress r) s = .next t ∧ step t = .next u ∧ u.engine = .done ∧ u.outLen = 0)

/-- No register of a command's half but MF_INDEX carries over from one command to the next (R45, R273): two states that
agree on IN_LEN, CFG and the reserved bits of STATUS, whatever their other registers hold, agree after the start of the
same command on every interface register and on every register of that command's half except MF_INDEX, which
CMD.COMPRESS does not write and which the first slice step empties (R202). -/
def Obligations.CommandsStartClean : Prop :=
  ∀ (s u t v : State) (r : BitVec 30), s.inLen = u.inLen → s.cfg = u.cfg →
    s.registersWf = true → u.registersWf = true →
    (exec (.cmdDecompress r) s = .next t → exec (.cmdDecompress r) u = .next v →
      t.status = v.status ∧ t.err = v.err ∧ t.outLen = v.outLen ∧ t.faultIp = v.faultIp ∧
      t.faultPos = v.faultPos ∧ t.strictL = v.strictL ∧ t.ip = v.ip ∧ t.olen = v.olen ∧
      t.outBase = v.outBase ∧ t.pos = v.pos ∧ t.chunkEnd = v.chunkEnd ∧ t.size = v.size ∧
      t.cflag = v.cflag ∧ t.tag = v.tag ∧ t.idx = v.idx ∧ t.dstate = v.dstate) ∧
    (exec (.cmdCompress r) s = .next t → exec (.cmdCompress r) u = .next v →
      t.status = v.status ∧ t.err = v.err ∧ t.outLen = v.outLen ∧ t.faultIp = v.faultIp ∧
      t.faultPos = v.faultPos ∧ t.strictL = v.strictL ∧ t.olen = v.olen ∧ t.sliceBase = v.sliceBase ∧
      t.sliceLen = v.sliceLen ∧ t.epos = v.epos ∧ t.candLen = v.candLen ∧ t.etagAt = v.etagAt ∧
      t.eidx = v.eidx ∧ t.estate = v.estate)

/-! ### The encoder -/

/-- R202, R206: the slice step, which opens the next slice or completes the command. -/
def Obligations.SliceStep : Prop :=
  ∀ s : State, s.host = [] → s.encoding = true → s.estate = .slice →
    (s.sliceBase = s.inLen →
      step s = .next { s with
        outLen := s.olen
        estate := .done
        status := statusSetState s.status .done }) ∧
    (s.sliceBase.toNat < s.inLen.toNat →
      step s = .next { s with
        sliceLen := BitVec.ofNat 13 (min 4096 (s.inLen.toNat - s.sliceBase.toNat))
        epos := 0
        candLen := 0
        eidx := 8#4
        mfIndex := []
        estate := .item })

/-- The item step (R203, R224): the end of the items, or the item chosen at EPOS, the cursor advanced by what it
covers, and the item packed. -/
def Obligations.ItemStep : Prop :=
  ∀ (s : State) (bytes : List Byte), s.host = [] → s.encoding = true → s.estate = .item → s.Inv →
    s.inBuf.readRun s.sliceBase.toNat s.sliceLen.toNat = some bytes →
    (s.epos = s.sliceLen → step s = .next { s with estate := .emit }) ∧
    (s.epos ≠ s.sliceLen →
      ∃ (it : Item) (t : State), chooseItem bytes s.epos.toNat = some it ∧ step s = .next t ∧
        addItem it (advance it.length s) = .next t ∧
        t.epos.toNat = s.epos.toNat + it.length ∧ t.estate = .item ∧ t.olen = s.olen ∧
        t.eidx.toNat = (if s.eidx = 8#4 then 0 else s.eidx.toNat) + 1)

/-- R223: the item chosen at `p` is the nearest of the longest matches where that length is at least 3, else the
literal at `p`. -/
def Obligations.ChoiceIsNearestLongest : Prop :=
  ∀ (bytes : List Byte) (p : Nat), p < bytes.length →
    (∃ it, chooseItem bytes p = some it) ∧
    (∀ q d l, chooseItem bytes p = some (.ref q d l) →
      q = p ∧ 1 ≤ d ∧ d ≤ p ∧ 3 ≤ l ∧ matchAt bytes p d = l ∧
      (∀ d', 1 ≤ d' → d' ≤ p → matchAt bytes p d' ≤ l) ∧
      (∀ d', 1 ≤ d' → d' < d → matchAt bytes p d' < l)) ∧
    (∀ b, chooseItem bytes p = some (.lit b) →
      bytes[p]? = some b ∧ ∀ d', 1 ≤ d' → d' ≤ p → matchAt bytes p d' < 3)

/-- R221, R222: the match length at a displacement is the largest `L` up to `maxlen(p)` whose bytes agree; the
comparison may run past `p`. -/
def Obligations.MatchLengthIsLargest : Prop :=
  ∀ (bytes : List Byte) (p d : Nat), p < bytes.length → 1 ≤ d → d ≤ p →
    maxLen bytes.length p = min (bytes.length - p) (2 ^ (16 - bfc p) + 2) ∧
    matchAt bytes p d ≤ maxLen bytes.length p ∧
    (∀ k, k < matchAt bytes p d → bytes[p - d + k]? = bytes[p + k]?) ∧
    (∀ n, n ≤ maxLen bytes.length p → (∀ k, k < n → bytes[p - d + k]? = bytes[p + k]?) →
      n ≤ matchAt bytes p d)

/-- R228: every back-reference the match finder chooses is legal, packs into its word and decodes from it, passes the
decoder's checks at its position, and the decoder's copy turns a window that holds the slice's first `p` bytes into one
that holds its first `p + l`. -/
def Obligations.ChosenMatchesDecode : Prop :=
  ∀ (bytes : List Byte) (p d l : Nat), bytes.length ≤ 4096 → chooseItem bytes p = some (.ref p d l) →
    1 ≤ d ∧ d ≤ p ∧ 3 ≤ l ∧ l ≤ 2 ^ (16 - bfc p) + 2 ∧ p + l ≤ bytes.length ∧
    refOperands (decodeRef p (refWord p d l)) = some (bfc p, d, l) ∧
    (∀ s : State, s.pos.toNat = p → refMalformed d l s = none) ∧
    (∀ s t : State, s.olen.toNat = s.outBase.toNat + p →
      (∀ k, k < p → s.outBuf.read (s.outBase.toNat + k) = bytes[k]?) → copyBytes d l s = .next t →
      ∀ k, k < p + l → t.outBuf.read (s.outBase.toNat + k) = bytes[k]?)

/-- R150: packing one item into CAND, wherever CAND has room for the bytes the item needs: 1 for a literal, 2 for a
back-reference, and 1 for the tag byte of a group it opens. A group is opened where none is open; a back-reference sets
its tag bit and writes its word low byte first, a literal its byte; every other byte of CAND is unchanged, and every
other register. -/
def Obligations.ItemPacking : Prop :=
  ∀ (s : State) (it : Item) (tagAt start n size : Nat) (old : Byte),
    size = (match it with | .lit _ => 1 | .ref _ _ _ => 2) → start + size ≤ 4608 →
    tagAt = (if s.eidx = 8#4 then s.candLen.toNat else s.etagAt.toNat) →
    start = (if s.eidx = 8#4 then s.candLen.toNat + 1 else s.candLen.toNat) →
    n = (if s.eidx = 8#4 then 0 else s.eidx.toNat) →
    (s.eidx = 8#4 → old = 0) →
    (s.eidx ≠ 8#4 → s.etagAt.toNat < s.candLen.toNat ∧ s.cand.read s.etagAt.toNat = some old) →
    ∃ t, addItem it s = .next t ∧
      t = { s with cand := t.cand, candLen := t.candLen, etagAt := t.etagAt, eidx := t.eidx } ∧
      t.etagAt.toNat = tagAt ∧ t.eidx = BitVec.ofNat 4 (n + 1) ∧
      match it with
      | .lit b =>
        t.candLen.toNat = start + 1 ∧ t.cand.read start = some b ∧ t.cand.read tagAt = some old ∧
          ∀ a, a ≠ tagAt → a ≠ start → t.cand.read a = s.cand.read a
      | .ref p d l =>
        t.candLen.toNat = start + 2 ∧
          t.cand.read start = some (BitVec.ofNat 8 (refWord p d l).toNat) ∧
          t.cand.read (start + 1) = some (BitVec.ofNat 8 ((refWord p d l).toNat / 256)) ∧
          refWord p d l = BitVec.ofNat 16 (((d - 1) <<< (16 - bfc p)) ||| (l - 3)) ∧
          t.cand.read tagAt = some (old ||| (1#8 <<< n)) ∧
          ∀ a, a ≠ tagAt → a ≠ start → a ≠ start + 1 → t.cand.read a = s.cand.read a

/-- R204, R205: the emit step. A candidate at least as long as the slice is discarded and the slice is written raw,
else the candidate is written compressed; the header precedes the payload, low byte first. -/
def Obligations.EmitStep : Prop :=
  ∀ (s : State) (payload : List Byte) (h : Half), s.host = [] → s.encoding = true → s.estate = .emit → s.Inv →
    (s.sliceLen.toNat ≤ s.candLen.toNat →
      s.inBuf.readRun s.sliceBase.toNat s.sliceLen.toNat = some payload ∧
        h = BitVec.ofNat 16 (0x3000 ||| (s.sliceLen.toNat - 1))) →
    (s.candLen.toNat < s.sliceLen.toNat →
      s.cand.readRun 0 s.candLen.toNat = some payload ∧
        h = BitVec.ofNat 16 (0xB000 ||| (s.candLen.toNat - 1))) →
    s.olen.toNat + 2 + payload.length ≤ s.outCap.toNat →
    ∃ t, step s = .next t ∧
      t = { s with
        outBuf := t.outBuf
        olen := s.olen + BitVec.ofNat 32 (2 + payload.length)
        sliceBase := BitVec.ofNat 32 (s.sliceBase.toNat + s.sliceLen.toNat)
        estate := .slice } ∧
      t.outBuf.read s.olen.toNat = some (BitVec.ofNat 8 h.toNat) ∧
      t.outBuf.read (s.olen.toNat + 1) = some (BitVec.ofNat 8 (h.toNat / 256)) ∧
      (∀ k, k < payload.length → t.outBuf.read (s.olen.toNat + 2 + k) = payload[k]?) ∧
      ∀ a, (a < s.olen.toNat ∨ s.olen.toNat + 2 + payload.length ≤ a) → t.outBuf.read a = s.outBuf.read a

/-! ### Frames -/

/-- What END, HDR.R, HDR.C, HDR.R.NS, HDR.C.NS and TAG leave unchanged: every register but the named ones, and every
byte of every buffer. A failing HDR.R.NS, HDR.C.NS or TAG changes the error registers alone. -/
def Obligations.HeaderAndTagFrame : Prop :=
  ∀ (i : Instr) (s t : State), exec i s = .next t →
    (i = .endMark →
      t = { s with ip := t.ip, outLen := t.outLen, dstate := t.dstate, status := t.status } ∧
        t.status.extractLsb' 2 30 = s.status.extractLsb' 2 30) ∧
    ((∃ m, i = .hdrR m) ∨ (∃ m, i = .hdrC m) →
      t = { s with
        size := t.size
        cflag := t.cflag
        ip := t.ip
        chunkEnd := t.chunkEnd
        pos := t.pos
        outBase := t.outBase
        dstate := t.dstate }) ∧
    ((∃ g m, i = .hdrRNs g m) ∨ (∃ g m, i = .hdrCNs g m) →
      (t.engine = .error ∧ t = failed t.err t.faultPos s) ∨
      t = { s with
        size := t.size
        cflag := t.cflag
        ip := t.ip
        chunkEnd := t.chunkEnd
        pos := t.pos
        outBase := t.outBase
        dstate := t.dstate }) ∧
    ((∃ b, i = .tag b) →
      (t.engine = .error ∧ t = failed t.err t.faultPos s) ∨
      t = { s with tag := t.tag, ip := t.ip, idx := t.idx, dstate := t.dstate }) ∧
    (i = .endMark ∨ (∃ m, i = .hdrR m) ∨ (∃ m, i = .hdrC m) ∨ (∃ g m, i = .hdrRNs g m) ∨
        (∃ g m, i = .hdrCNs g m) ∨ (∃ b, i = .tag b) →
      ∀ a, t.inBuf.read a = s.inBuf.read a ∧ t.outBuf.read a = s.outBuf.read a ∧
        t.cand.read a = s.cand.read a)

/-- What RAW, LIT and the nine back-references leave unchanged: every register but the named ones, every byte of IN
and CAND, and every byte of OUT outside the stored ones, which start at OLEN and are as many as the payload, one, or
the length. A failing one changes the error registers alone and stores nothing. -/
def Obligations.StoringTokenFrame : Prop :=
  ∀ (i : Instr) (s t : State) (n : Nat), exec i s = .next t →
    (∃ payload, i = .raw payload ∧ n = payload.length) ∨ (∃ b, i = .lit b ∧ n = 1) ∨
      (∃ ob d, refOperands i = some (ob, d, n)) →
    (∀ a, t.inBuf.read a = s.inBuf.read a ∧ t.cand.read a = s.cand.read a) ∧
    ((t.engine = .error ∧ t = failed t.err t.faultPos s ∧ ∀ a, t.outBuf.read a = s.outBuf.read a) ∨
      ((∀ a, (a < s.olen.toNat ∨ s.olen.toNat + n ≤ a) → t.outBuf.read a = s.outBuf.read a) ∧
        ((∃ payload, i = .raw payload) →
          t = { s with
            outBuf := t.outBuf
            olen := t.olen
            pos := t.pos
            ip := t.ip
            dstate := t.dstate }) ∧
        ((∀ payload, i ≠ .raw payload) →
          t = { s with
            outBuf := t.outBuf
            olen := t.olen
            pos := t.pos
            ip := t.ip
            idx := t.idx })))

/-- What the commands leave unchanged: CMD.NOP and CMD.RSVD everything; CMD.DECOMPRESS the encoder's registers,
CMD.COMPRESS the decoder's own; both CFG, IN_LEN, the parameters, what is the host's, and every byte of every
buffer. -/
def Obligations.CommandFrame : Prop :=
  ∀ (i : Instr) (s t : State) (r : BitVec 30), exec i s = .next t →
    (i = .cmdNop r ∨ i = .cmdRsvd r → t = s) ∧
    (i = .cmdDecompress r →
      t = { s with
        status := t.status
        err := t.err
        outLen := t.outLen
        faultIp := t.faultIp
        faultPos := t.faultPos
        strictL := t.strictL
        ip := t.ip
        olen := t.olen
        outBase := t.outBase
        pos := t.pos
        chunkEnd := t.chunkEnd
        size := t.size
        cflag := t.cflag
        tag := t.tag
        idx := t.idx
        dstate := t.dstate }) ∧
    (i = .cmdCompress r →
      t = { s with
        status := t.status
        err := t.err
        outLen := t.outLen
        faultIp := t.faultIp
        faultPos := t.faultPos
        strictL := t.strictL
        olen := t.olen
        sliceBase := t.sliceBase
        sliceLen := t.sliceLen
        epos := t.epos
        candLen := t.candLen
        etagAt := t.etagAt
        eidx := t.eidx
        estate := t.estate }) ∧
    (i = .cmdNop r ∨ i = .cmdRsvd r ∨ i = .cmdDecompress r ∨ i = .cmdCompress r →
      ∀ a, t.inBuf.read a = s.inBuf.read a ∧ t.outBuf.read a = s.outBuf.read a ∧
        t.cand.read a = s.cand.read a)

/-- What a step of a running COMPRESS leaves unchanged: the decoder's own registers, the error registers, CFG, IN_LEN,
STRICT_L, and every byte of IN; OUT_LEN and STATUS change at the completion alone. -/
def Obligations.EncoderFrame : Prop :=
  ∀ s t : State, s.host = [] → s.encoding = true → step s = .next t →
    t = { s with
      outLen := t.outLen
      status := t.status
      olen := t.olen
      estate := t.estate
      sliceBase := t.sliceBase
      sliceLen := t.sliceLen
      epos := t.epos
      candLen := t.candLen
      etagAt := t.etagAt
      eidx := t.eidx
      mfIndex := t.mfIndex
      outBuf := t.outBuf
      cand := t.cand } ∧
    (∀ a, t.inBuf.read a = s.inBuf.read a) ∧
    (t.estate ≠ .done → t.outLen = s.outLen ∧ t.status = s.status) ∧
    (s.estate ≠ .emit → ∀ a, t.outBuf.read a = s.outBuf.read a) ∧
    (s.estate ≠ .item → ∀ a, t.cand.read a = s.cand.read a)

/-- What a host access leaves unchanged: no access but a reset and a write of CMD touches the engine's registers or
OUT or CAND; a load changes the one byte of IN, a register write CFG or IN_LEN alone, a read what the host was given
and the count of draws. That a load leaves OUT alone also where IN and OUT share storage is log entry 30. -/
def Obligations.HostAccessFrame : Prop :=
  ∀ (s t : State) (act : HostAction) (q : List HostAction), s.host = act :: q → step s = .next t →
    (∀ n, act = .readReg n → t = { s with host := q, hostData := t.hostData, draws := t.draws }) ∧
    (∀ a, act = .readIn a ∨ act = .readOut a →
      t = { s with host := q, hostData := t.hostData, draws := t.draws }) ∧
    (∀ n v, act = .writeReg (n + 1) v → t = { s with host := q, cfg := t.cfg, inLen := t.inLen } ∧
      (n + 1 ≠ 1 → t.cfg = s.cfg) ∧ (n + 1 ≠ 4 → t.inLen = s.inLen)) ∧
    (∀ a b, act = .loadIn a b → t = { s with host := q, inBuf := t.inBuf } ∧
      t.inBuf.read a.toNat = some b ∧ ∀ x, x ≠ a.toNat → t.inBuf.read x = s.inBuf.read x)

/-! ### Invariants -/

/-- Every step keeps every buffer in canonical form and inside its address space, whatever the other registers hold. -/
def Obligations.StepKeepsBuffers : Prop :=
  ∀ s t : State, s.buffersWf = true → step s = .next t → t.buffersWf = true

/-- Every step keeps the reserved register bits 0, IN_LEN within IN_CAP, and a running engine on one of the two
commands (R23 to R26, R29, R30). -/
def Obligations.StepKeepsRegisters : Prop :=
  ∀ s t : State, s.registersWf = true → step s = .next t → t.registersWf = true

/-- Every step keeps the invariant of a run: the buffers, the registers, and the datapath relations of both halves. -/
def Obligations.StepKeepsRunInvariant : Prop :=
  ∀ s t : State, s.Inv → step s = .next t → t.Inv

/-- The state after reset meets the invariant of a run, and the index relation. -/
def Obligations.ResetMeetsInvariant : Prop :=
  State.reset.Inv ∧ State.reset.indexCovers

/-- No failure is a crash (R248, R277): in a state of a run, the only fault a step can end in is a host access outside
a buffer. The engine never reads outside the input, the window or the candidate, and never meets a datapath value it
has no rule for. -/
def Obligations.EngineNeverFaults : Prop :=
  ∀ (s : State) (r : Fault), s.Inv → step s = .fault r → r = .noSuchAddress

/-- The index holds exactly the covered positions of the current slice (R44, R226, R281): every step of a run keeps
that. The form of the index is the model's choice (log entry 13). -/
def Obligations.IndexCoversSlice : Prop :=
  ∀ s t : State, s.Inv → s.indexCovers → step s = .next t → t.indexCovers

/-- R61, R62: the engine never writes IN, and writes OUT only by appending at OLEN: no byte below OLEN changes and none
at or beyond the new OLEN does. Where IN and OUT share storage at or above IN_LEN, this is log entry 30. -/
def Obligations.EngineAppendsOnly : Prop :=
  ∀ s t : State, s.host = [] → s.engine = .busy → step s = .next t →
    t.inBuf = s.inBuf ∧ t.inLen = s.inLen ∧ s.olen.toNat ≤ t.olen.toNat ∧
    ∀ a, (a < s.olen.toNat ∨ t.olen.toNat ≤ a) → t.outBuf.read a = s.outBuf.read a

/-- IP never moves backward and never passes IN_LEN, POS never passes 4096, whatever the next state of the decoder, and
inside a chunk IP never passes CHUNK_END (R32, R35, R177, R243). -/
def Obligations.CursorsStayInBounds : Prop :=
  ∀ s t : State, s.Inv → s.host = [] → s.decoding = true → step s = .next t →
    s.ip.toNat ≤ t.ip.toNat ∧ t.ip.toNat ≤ s.inLen.toNat ∧ t.pos.toNat ≤ 4096 ∧
    (t.dstate = .tag ∨ t.dstate = .item → t.ip.toNat ≤ t.chunkEnd.toNat)

/-! ### Whole commands -/

/-- Every DECOMPRESS ends (R181): from its start, within `3 * IN_LEN + 2` steps of the engine, the command has ended
in DONE or ERROR, or the model has refused the run for OUT_CAP (R78); it never faults and never runs on. -/
def Obligations.DecompressEnds : Prop :=
  ∀ (s t : State) (r : BitVec 30), s.Inv → s.host = [] → exec (.cmdDecompress r) s = .next t →
    match core.run (3 * s.inLen.toNat + 2) t with
    | .next u => u.ended = true
    | .fault _ => False
    | .refused q => q = .outputFull

/-- Every COMPRESS ends in DONE: from its start, within `4 * IN_LEN + 1` steps of the engine (one for each item and
three for each slice, and the completion), or the model has refused the run for OUT_CAP (R78). -/
def Obligations.CompressEnds : Prop :=
  ∀ (s t : State) (r : BitVec 30), s.Inv → s.host = [] → exec (.cmdCompress r) s = .next t →
    match core.run (4 * s.inLen.toNat + 1) t with
    | .next u => u.engine = .done
    | .fault _ => False
    | .refused q => q = .outputFull

/-- DECOMPRESS of what COMPRESS wrote gives back the input, in both strictness settings (R209): `c` is the state a
COMPRESS of `x` ends in, `y` its result; any state that holds `y` as its input, with room for `x`, ends a DECOMPRESS
in DONE with result `x`. -/
def Obligations.DecompressUndoesCompress : Prop :=
  ∀ (s t c u v : State) (r r' : BitVec 30) (k : Nat) (x y : List Byte),
    s.Inv → s.host = [] → s.inputIs x → exec (.cmdCompress r) s = .next t →
    core.run k t = .next c → c.engine = .done → c.result = some y →
    u.Inv → u.host = [] → u.inputIs y → x.length ≤ u.outCap.toNat → exec (.cmdDecompress r') u = .next v →
    ∃ (n : Nat) (w : State), core.run n v = .next w ∧ w.engine = .done ∧ w.outLen.toNat = x.length ∧
      w.result = some x

/-! ### The host interface -/

/-- R30: every reserved field reads 0 in every state, a register numbered 8 or above reads 0, and no write of one, or
of a read-only register, changes anything (R21): a write of CMD acts as its bits 1:0 alone, and OP = 3 is accepted and
ignored. The third clause also says that a host read of CFG, ERR, IN_LEN, FAULT_IP or FAULT_POS is exact while BUSY,
which is the model's reading of R279 (log entry 19, DEDUCED). -/
def Obligations.ReservedReadZero : Prop :=
  (∀ (s : State) (n : Nat), 8 ≤ n → regValue n s = 0) ∧
  (∀ s : State, regValue 0 s = 0 ∧ regValue 1 s &&& 0xFFFFFFFE#32 = 0 ∧ regValue 2 s &&& 0xFFFFFFF0#32 = 0 ∧
    regValue 3 s &&& 0xFFFFFF0C#32 = 0 ∧ regValue 7 s &&& 0xFFFFE000#32 = 0) ∧
  (∀ (s : State) (n : Nat) (q : List HostAction), s.host = .readReg n :: q → (n ≠ 5 ∨ s.engine ≠ .busy) →
    step s = .next { s with host := q, hostData := regValue n s }) ∧
  (∀ (s : State) (n : Nat) (v : Word) (q : List HostAction), s.host = .writeReg n v :: q →
    n ∉ [0, 1, 4] → step s = .next { s with host := q }) ∧
  (∀ (s : State) (v : Word) (q : List HostAction), s.host = .writeReg 1 v :: q → s.engine ≠ .busy →
    step s = .next { s with host := q, cfg := v &&& 1#32 }) ∧
  (∀ (s : State) (v : Word) (q : List HostAction),
    step { s with host := .writeReg 0 v :: q } = step { s with host := .writeReg 0 (v &&& 3#32) :: q }) ∧
  (∀ (s : State) (v : Word) (q : List HostAction), s.host = .writeReg 0 v :: q → s.engine ≠ .busy →
    v.extractLsb' 0 2 = 3#2 → step s = .next { s with host := q })

/-- R278: a host write of CMD, CFG, IN_LEN or a byte of IN while BUSY is refused. -/
def Obligations.HostWritesWhileBusyRefused : Prop :=
  ∀ (s : State) (q : List HostAction), s.engine = .busy →
    (∀ v, s.host = .writeReg 0 v :: q ∨ s.host = .writeReg 1 v :: q ∨ s.host = .writeReg 4 v :: q →
      step s = .refused .hostWriteWhileBusy) ∧
    (∀ a b, s.host = .loadIn a b :: q → a.toNat < s.inCap.toNat → step s = .refused .hostWriteWhileBusy)

/-- Writing IN_LEN (R26, I14): a value up to IN_CAP is kept, a greater one is refused. -/
def Obligations.InLenWithinCapacity : Prop :=
  ∀ (s : State) (v : Word) (q : List HostAction), s.host = .writeReg 4 v :: q → s.engine ≠ .busy →
    (v.toNat ≤ s.inCap.toNat → step s = .next { s with host := q, inLen := v }) ∧
    (s.inCap.toNat < v.toNat → step s = .refused .inLenOverCap)

/-- What the model refuses for room and for the host's duties (R78, R76, R275, R280; I13, I15): every append past
OUT_CAP, by LIT, RAW, the nine back-references and the emit step of COMPRESS; a command whose input and output share
storage, by the host addresses of log entry 7; and a command whose input is not loaded (log entry 5). -/
def Obligations.CapacityRefused : Prop :=
  (∀ (s : State) (b : Byte), s.atLiteral = true → s.ip.toNat < s.inLen.toNat → s.pos.toNat < 4096 →
    s.outCap.toNat ≤ s.olen.toNat → exec (.lit b) s = .refused .outputFull) ∧
  (∀ (s : State) (payload : List Byte), s.atRaw payload.length = true → s.chunkEnd.toNat ≤ s.inLen.toNat →
    s.olen.toNat ≤ s.outCap.toNat → s.outCap.toNat < s.olen.toNat + payload.length →
    exec (.raw payload) s = .refused .outputFull) ∧
  (∀ (s : State) (i : Instr) (ob d l : Nat), refOperands i = some (ob, d, l) → s.atRef ob = true → s.Inv →
    s.ip.toNat + 2 ≤ s.chunkEnd.toNat → s.ip.toNat + 2 ≤ s.inLen.toNat → d ≤ s.pos.toNat →
    s.pos.toNat + l ≤ 4096 → s.outCap.toNat < s.olen.toNat + l → exec i s = .refused .outputFull) ∧
  (∀ s : State, s.host = [] → s.encoding = true → s.estate = .emit → s.Inv →
    s.outCap.toNat < s.olen.toNat + 2 + min s.sliceLen.toNat s.candLen.toNat →
    step s = .refused .outputFull) ∧
  (∀ (s : State) (r : BitVec 30), s.engine ≠ .busy → 0 < s.inLen.toNat → 0 < s.outCap.toNat →
    s.inHostBase < s.outHostBase + s.outCap.toNat → s.outHostBase < s.inHostBase + s.inLen.toNat →
    exec (.cmdDecompress r) s = .refused .buffersShareStorage ∧
    exec (.cmdCompress r) s = .refused .buffersShareStorage) ∧
  (∀ (s : State) (r : BitVec 30) (a : Nat), s.inBuf.wf = true → s.engine ≠ .busy → s.buffersShare = false →
    a < s.inLen.toNat → s.inBuf.read a = none →
    exec (.cmdDecompress r) s = .refused .inputNotLoaded ∧
    exec (.cmdCompress r) s = .refused .inputNotLoaded)

/-- Power-up, and a reset in any state, a running command included: every register at its reset value and the engine
IDLE (R270). The model's own: no byte of IN, OUT or CAND has a value, whose contents R271 leaves unspecified (log
entries 5 and 18), and a reset keeps the capacities and the host's remaining actions (log entry 18). -/
def Obligations.ResetRestoresBlock : Prop :=
  State.reset.atReset ∧
  ∀ (s : State) (q : List HostAction), s.host = .reset :: q →
    ∃ t, step s = .next t ∧ t.atReset ∧ t.inCap = s.inCap ∧ t.outCap = s.outCap ∧ t.host = q

/-- What the host reads of OUT and IN (R27, R60, R74, R249, R271, R279; I7 to I10). Of OUT, after DONE the bytes of the
result exactly, and in every other case a value drawn afresh, whatever it is; so is OUT_LEN while BUSY. Of IN, the byte
loaded, and a value drawn afresh where nothing has been written since reset. How a value is drawn is log entry 4, that
an unwritten byte has none log entry 5, that a read of IN is exact while BUSY too log entry 19. -/
def Obligations.HostReadsOfOutput : Prop :=
  (∀ (s : State) (a : Word) (q : List HostAction) (b : Byte), s.host = .readOut a :: q →
    a.toNat < s.outCap.toNat → s.engine = .done → a.toNat < s.outLen.toNat →
    s.outBuf.read a.toNat = some b → step s = .next { s with host := q, hostData := b.setWidth 32 }) ∧
  (∀ (s : State) (a : Word) (q : List HostAction), s.host = .readOut a :: q → a.toNat < s.outCap.toNat →
    (s.engine ≠ .done ∨ s.outLen.toNat ≤ a.toNat) →
    step s = .next { s with
      host := q
      hostData := (Config.freeByte s.draws).setWidth 32
      draws := s.draws + 1 }) ∧
  (∀ (s : State) (q : List HostAction), s.host = .readReg 5 :: q → s.engine = .busy →
    step s = .next { s with host := q, hostData := Config.freeWord s.draws, draws := s.draws + 1 }) ∧
  (∀ (s : State) (a : Word) (q : List HostAction), s.host = .readIn a :: q → a.toNat < s.inCap.toNat →
    (∀ b, s.inBuf.read a.toNat = some b → step s = .next { s with host := q, hostData := b.setWidth 32 }) ∧
    (s.inBuf.read a.toNat = none →
      step s = .next { s with
        host := q
        hostData := (Config.freeByte s.draws).setWidth 32
        draws := s.draws + 1 }))
end

