-- ==== Sys2Proof/Laws/Memory.lean ====
section
/-! SUPPORT. The laws of a buffer: read after write, the canonical form and the bounds kept by every operation, and
the run of bytes that one walk reads. -/

namespace Sys2Proof.Machine

@[simp] theorem Memory.read_nil (a : Nat) : Memory.read [] a = none := rfl

/-- A read after a write gives the byte written. -/
@[simp] theorem Memory.read_write_same (m : Memory) (a : Nat) (v : Byte) :
    (m.write a v).read a = some v := by
  induction m with
  | nil => simp [Memory.write, Memory.read]
  | cons c m ih =>
    obtain ⟨x, b⟩ := c
    unfold Memory.write
    split
    · simp [Memory.read]
    · split
      · simp [Memory.read]
      · have : x ≠ a := by omega
        simp [Memory.read, this, ih]

/-- A write leaves every other address alone. -/
theorem Memory.read_write_other (m : Memory) {a x : Nat} (v : Byte) (h : x ≠ a) :
    (m.write a v).read x = m.read x := by
  induction m with
  | nil => simp [Memory.write, Memory.read, Ne.symm h]
  | cons c m ih =>
    obtain ⟨y, b⟩ := c
    unfold Memory.write
    split
    · simp [Memory.read, Ne.symm h]
    · split
      · rename_i h2
        subst h2
        simp [Memory.read, Ne.symm h]
      · simp [Memory.read, ih]

/-- Both reads after a write in one equation. -/
theorem Memory.read_write (m : Memory) (a x : Nat) (v : Byte) :
    (m.write a v).read x = if x = a then some v else m.read x := by
  split
  · rename_i h
    subst h
    simp
  · exact m.read_write_other v ‹_›

theorem Memory.risingFrom_mono {lo lo' : Nat} (h : lo' ≤ lo) (m : Memory) :
    Memory.risingFrom lo m = true → Memory.risingFrom lo' m = true := by
  cases m with
  | nil => simp [Memory.risingFrom]
  | cons c m =>
    simp only [Memory.risingFrom, Bool.and_eq_true, decide_eq_true_eq]
    rintro ⟨h1, h2⟩
    exact ⟨h.trans h1, h2⟩

theorem Memory.risingFrom_write (m : Memory) (lo a : Nat) (v : Byte) (ha : lo ≤ a) :
    Memory.risingFrom lo m = true → Memory.risingFrom lo (m.write a v) = true := by
  induction m generalizing lo with
  | nil => simp [Memory.write, Memory.risingFrom, ha]
  | cons c m ih =>
    obtain ⟨x, b⟩ := c
    intro h
    simp only [Memory.risingFrom, Bool.and_eq_true, decide_eq_true_eq] at h
    unfold Memory.write
    split
    · have : a + 1 ≤ x := by omega
      simp [Memory.risingFrom, ha, this, h.2]
    · split
      · rename_i h2
        subst h2
        simp [Memory.risingFrom, ha, h.2]
      · have hx : x + 1 ≤ a := by omega
        simp [Memory.risingFrom, h.1, ih (x + 1) hx h.2]

/-- A write keeps the canonical form. -/
theorem Memory.wf_write (m : Memory) (a : Nat) (v : Byte) (h : m.wf = true) : (m.write a v).wf = true :=
  Memory.risingFrom_write m 0 a v (Nat.zero_le a) h

/-- A write below the bound keeps the bound. -/
theorem Memory.below_write (m : Memory) {cap a : Nat} (v : Byte) (ha : a < cap) (h : m.below cap = true) :
    (m.write a v).below cap = true := by
  induction m with
  | nil => simp [Memory.write, Memory.below, ha]
  | cons c m ih =>
    obtain ⟨x, b⟩ := c
    simp only [Memory.below, List.all_cons, Bool.and_eq_true, decide_eq_true_eq] at h ih
    unfold Memory.write
    split
    · simp [Memory.below, ha, h]
    · split
      · simp [Memory.below, ha, h.2]
      · simp [Memory.below, h.1, ih h.2]

/-- A byte that has a value lies below the bound. -/
theorem Memory.below_of_read {m : Memory} {cap a : Nat} {b : Byte} (h : m.below cap = true)
    (hr : m.read a = some b) : a < cap := by
  induction m with
  | nil => simp at hr
  | cons c m ih =>
    obtain ⟨x, v⟩ := c
    simp only [Memory.below, List.all_cons, Bool.and_eq_true, decide_eq_true_eq] at h ih
    unfold Memory.read at hr
    split at hr
    · omega
    · exact ih h.2 hr

theorem Memory.read_none_of_risingFrom {m : Memory} {lo a : Nat} (h : Memory.risingFrom lo m = true)
    (ha : a < lo) : m.read a = none := by
  induction m generalizing lo with
  | nil => rfl
  | cons c m ih =>
    obtain ⟨x, v⟩ := c
    simp only [Memory.risingFrom, Bool.and_eq_true, decide_eq_true_eq] at h
    have h1 : x ≠ a := by omega
    have h2 : a < x + 1 := by omega
    simp [Memory.read, h1, ih h.2 h2]

@[simp] theorem Memory.readRun_zero (m : Memory) (a : Nat) : m.readRun a 0 = some [] := by
  cases m <;> rfl

/-- A run of bytes read in one walk has the length asked for. -/
theorem Memory.readRun_length {m : Memory} {a n : Nat} {bs : List Byte} (h : m.readRun a n = some bs) :
    bs.length = n := by
  induction m generalizing a n bs with
  | nil =>
    cases n with
    | zero => simp [Memory.readRun] at h; simp [← h]
    | succ n => simp [Memory.readRun] at h
  | cons c m ih =>
    obtain ⟨x, b⟩ := c
    cases n with
    | zero => simp [Memory.readRun] at h; simp [← h]
    | succ n =>
      unfold Memory.readRun at h
      split at h
      · exact ih h
      · split at h
        · obtain ⟨cs, h1, h2⟩ := Option.map_eq_some_iff.mp h
          simp [← h2, ih h1]
        · simp at h

/-- Single reads in a canonical buffer do not see cells below where they start. -/
theorem Memory.readEach_skip (m : Memory) {x a : Nat} (b : Byte) (n : Nat) (h : x < a) :
    Memory.readEach ((x, b) :: m) a n = Memory.readEach m a n := by
  induction n generalizing a with
  | zero => rfl
  | succ n ih =>
    have hx : x ≠ a := by omega
    have h1 : x < a + 1 := by omega
    simp [Memory.readEach, Memory.read, hx, ih h1]

theorem Memory.readRun_eq_readEach_from (m : Memory) (lo a n : Nat) (h : Memory.risingFrom lo m = true) :
    m.readRun a n = m.readEach a n := by
  induction m generalizing lo a n with
  | nil => cases n <;> simp [Memory.readRun, Memory.readEach]
  | cons c m ih =>
    obtain ⟨x, b⟩ := c
    simp only [Memory.risingFrom, Bool.and_eq_true, decide_eq_true_eq] at h
    cases n with
    | zero => simp [Memory.readRun, Memory.readEach]
    | succ n =>
      unfold Memory.readRun
      split
      · rename_i hlt
        rw [Memory.readEach_skip m b (n + 1) hlt]
        exact ih (x + 1) a (n + 1) h.2
      · split
        · rename_i heq
          subst heq
          simp only [Memory.readEach, Memory.read, if_true]
          rw [Memory.readEach_skip m b n (Nat.lt_succ_self x), ih (x + 1) (x + 1) n h.2]
        · have h1 : a < x + 1 := by omega
          have h2 : x ≠ a := by omega
          simp [Memory.readEach, Memory.read, h2, Memory.read_none_of_risingFrom h.2 h1]

/-- In a buffer of canonical form, one walk reads the bytes of the single reads (R69). -/
theorem Memory.readRun_eq_readEach (m : Memory) (a n : Nat) (h : m.wf = true) :
    m.readRun a n = m.readEach a n :=
  m.readRun_eq_readEach_from 0 a n h

/-- The bytes of a run are the single bytes. -/
theorem Memory.readEach_get {m : Memory} {a n : Nat} {bs : List Byte} (h : m.readEach a n = some bs) (k : Nat)
    (hk : k < n) : m.read (a + k) = bs[k]? := by
  induction n generalizing a bs k with
  | zero => omega
  | succ n ih =>
    unfold Memory.readEach at h
    split at h
    · simp at h
    · rename_i b hb
      obtain ⟨cs, h1, h2⟩ := Option.map_eq_some_iff.mp h
      subst h2
      cases k with
      | zero => simpa using hb
      | succ k =>
        have := ih h1 k (by omega)
        simpa [Nat.add_assoc, Nat.add_comm 1 k] using this

/-- Where every byte of a run has a value, the run can be read. -/
theorem Memory.readEach_isSome {m : Memory} {a n : Nat}
    (h : ∀ k, k < n → (m.read (a + k)).isSome = true) : ∃ bs, m.readEach a n = some bs := by
  induction n generalizing a with
  | zero => exact ⟨[], rfl⟩
  | succ n ih =>
    have h0 := h 0 (by omega)
    obtain ⟨b, hb⟩ := Option.isSome_iff_exists.mp h0
    obtain ⟨bs, hbs⟩ := ih (a := a + 1) (by
      intro k hk
      have := h (k + 1) (by omega)
      simpa [Nat.add_assoc, Nat.add_comm 1 k] using this)
    exact ⟨b :: bs, by simp [Memory.readEach, show m.read a = some b from hb, hbs]⟩

/-- A part of a run that can be read can be read, and is that part of its bytes (R61: a token inside the input). -/
theorem Memory.readRun_part {m : Memory} {n a k : Nat} {bs : List Byte} (hw : m.wf = true)
    (h : m.readRun 0 n = some bs) (hk : a + k ≤ n) : m.readRun a k = some ((bs.drop a).take k) := by
  have hl : bs.length = n := m.readRun_length h
  rw [m.readRun_eq_readEach 0 n hw] at h
  have hb : ∀ x, x < n → m.read x = bs[x]? := fun x hx => by simpa using Memory.readEach_get h x hx
  obtain ⟨cs, hcs⟩ := Memory.readEach_isSome (m := m) (a := a) (n := k) fun x hx => by
    rw [hb (a + x) (by omega), List.getElem?_eq_getElem (by omega)]
    rfl
  have hc : cs.length = k := m.readRun_length ((m.readRun_eq_readEach a k hw).trans hcs)
  rw [m.readRun_eq_readEach a k hw, hcs]
  refine congrArg some (List.ext_getElem? fun x => ?_)
  rw [List.getElem?_take]
  split
  · rename_i hx
    rw [← Memory.readEach_get hcs x hx, hb (a + x) (by omega), List.getElem?_drop]
  · exact List.getElem?_eq_none (by omega)

end Sys2Proof.Machine
end

