-- ==== Sys2Proof/Laws/State.lean ====
section
/-! SUPPORT. One lemma per field per named update of State, and what the updates do to the fields of STATUS. -/

namespace Sys2Proof.Machine

/-! ### takeError: The error entry (R247). -/

@[simp] theorem takeError_cfg (c : Cause) (s : State) : (takeError c s).cfg = s.cfg := rfl
@[simp] theorem takeError_status (c : Cause) (s : State) : (takeError c s).status = statusSetState s.status .error := rfl
@[simp] theorem takeError_err (c : Cause) (s : State) : (takeError c s).err = errWord c := rfl
@[simp] theorem takeError_inLen (c : Cause) (s : State) : (takeError c s).inLen = s.inLen := rfl
@[simp] theorem takeError_outLen (c : Cause) (s : State) : (takeError c s).outLen = 0 := rfl
@[simp] theorem takeError_faultIp (c : Cause) (s : State) : (takeError c s).faultIp = s.ip.setWidth 32 := rfl
@[simp] theorem takeError_faultPos (c : Cause) (s : State) : (takeError c s).faultPos = if s.dstate = .tag ∨ s.dstate = .item then s.pos.setWidth 32 else 0 := rfl
@[simp] theorem takeError_dstate (c : Cause) (s : State) : (takeError c s).dstate = s.dstate := rfl
@[simp] theorem takeError_ip (c : Cause) (s : State) : (takeError c s).ip = s.ip := rfl
@[simp] theorem takeError_chunkEnd (c : Cause) (s : State) : (takeError c s).chunkEnd = s.chunkEnd := rfl
@[simp] theorem takeError_size (c : Cause) (s : State) : (takeError c s).size = s.size := rfl
@[simp] theorem takeError_cflag (c : Cause) (s : State) : (takeError c s).cflag = s.cflag := rfl
@[simp] theorem takeError_pos (c : Cause) (s : State) : (takeError c s).pos = s.pos := rfl
@[simp] theorem takeError_olen (c : Cause) (s : State) : (takeError c s).olen = s.olen := rfl
@[simp] theorem takeError_outBase (c : Cause) (s : State) : (takeError c s).outBase = s.outBase := rfl
@[simp] theorem takeError_tag (c : Cause) (s : State) : (takeError c s).tag = s.tag := rfl
@[simp] theorem takeError_idx (c : Cause) (s : State) : (takeError c s).idx = s.idx := rfl
@[simp] theorem takeError_strictL (c : Cause) (s : State) : (takeError c s).strictL = s.strictL := rfl
@[simp] theorem takeError_estate (c : Cause) (s : State) : (takeError c s).estate = s.estate := rfl
@[simp] theorem takeError_sliceBase (c : Cause) (s : State) : (takeError c s).sliceBase = s.sliceBase := rfl
@[simp] theorem takeError_sliceLen (c : Cause) (s : State) : (takeError c s).sliceLen = s.sliceLen := rfl
@[simp] theorem takeError_epos (c : Cause) (s : State) : (takeError c s).epos = s.epos := rfl
@[simp] theorem takeError_candLen (c : Cause) (s : State) : (takeError c s).candLen = s.candLen := rfl
@[simp] theorem takeError_etagAt (c : Cause) (s : State) : (takeError c s).etagAt = s.etagAt := rfl
@[simp] theorem takeError_eidx (c : Cause) (s : State) : (takeError c s).eidx = s.eidx := rfl
@[simp] theorem takeError_mfIndex (c : Cause) (s : State) : (takeError c s).mfIndex = s.mfIndex := rfl
@[simp] theorem takeError_inBuf (c : Cause) (s : State) : (takeError c s).inBuf = s.inBuf := rfl
@[simp] theorem takeError_outBuf (c : Cause) (s : State) : (takeError c s).outBuf = s.outBuf := rfl
@[simp] theorem takeError_cand (c : Cause) (s : State) : (takeError c s).cand = s.cand := rfl
@[simp] theorem takeError_inCap (c : Cause) (s : State) : (takeError c s).inCap = s.inCap := rfl
@[simp] theorem takeError_outCap (c : Cause) (s : State) : (takeError c s).outCap = s.outCap := rfl
@[simp] theorem takeError_inHostBase (c : Cause) (s : State) : (takeError c s).inHostBase = s.inHostBase := rfl
@[simp] theorem takeError_outHostBase (c : Cause) (s : State) : (takeError c s).outHostBase = s.outHostBase := rfl
@[simp] theorem takeError_regBase (c : Cause) (s : State) : (takeError c s).regBase = s.regBase := rfl
@[simp] theorem takeError_host (c : Cause) (s : State) : (takeError c s).host = s.host := rfl
@[simp] theorem takeError_hostData (c : Cause) (s : State) : (takeError c s).hostData = s.hostData := rfl
@[simp] theorem takeError_draws (c : Cause) (s : State) : (takeError c s).draws = s.draws := rfl

/-! ### clearError: What a command's start clears (R250). -/

@[simp] theorem clearError_cfg (s : State) : (clearError s).cfg = s.cfg := rfl
@[simp] theorem clearError_status (s : State) : (clearError s).status = s.status := rfl
@[simp] theorem clearError_err (s : State) : (clearError s).err = 0 := rfl
@[simp] theorem clearError_inLen (s : State) : (clearError s).inLen = s.inLen := rfl
@[simp] theorem clearError_outLen (s : State) : (clearError s).outLen = 0 := rfl
@[simp] theorem clearError_faultIp (s : State) : (clearError s).faultIp = 0 := rfl
@[simp] theorem clearError_faultPos (s : State) : (clearError s).faultPos = 0 := rfl
@[simp] theorem clearError_dstate (s : State) : (clearError s).dstate = s.dstate := rfl
@[simp] theorem clearError_ip (s : State) : (clearError s).ip = s.ip := rfl
@[simp] theorem clearError_chunkEnd (s : State) : (clearError s).chunkEnd = s.chunkEnd := rfl
@[simp] theorem clearError_size (s : State) : (clearError s).size = s.size := rfl
@[simp] theorem clearError_cflag (s : State) : (clearError s).cflag = s.cflag := rfl
@[simp] theorem clearError_pos (s : State) : (clearError s).pos = s.pos := rfl
@[simp] theorem clearError_olen (s : State) : (clearError s).olen = s.olen := rfl
@[simp] theorem clearError_outBase (s : State) : (clearError s).outBase = s.outBase := rfl
@[simp] theorem clearError_tag (s : State) : (clearError s).tag = s.tag := rfl
@[simp] theorem clearError_idx (s : State) : (clearError s).idx = s.idx := rfl
@[simp] theorem clearError_strictL (s : State) : (clearError s).strictL = s.strictL := rfl
@[simp] theorem clearError_estate (s : State) : (clearError s).estate = s.estate := rfl
@[simp] theorem clearError_sliceBase (s : State) : (clearError s).sliceBase = s.sliceBase := rfl
@[simp] theorem clearError_sliceLen (s : State) : (clearError s).sliceLen = s.sliceLen := rfl
@[simp] theorem clearError_epos (s : State) : (clearError s).epos = s.epos := rfl
@[simp] theorem clearError_candLen (s : State) : (clearError s).candLen = s.candLen := rfl
@[simp] theorem clearError_etagAt (s : State) : (clearError s).etagAt = s.etagAt := rfl
@[simp] theorem clearError_eidx (s : State) : (clearError s).eidx = s.eidx := rfl
@[simp] theorem clearError_mfIndex (s : State) : (clearError s).mfIndex = s.mfIndex := rfl
@[simp] theorem clearError_inBuf (s : State) : (clearError s).inBuf = s.inBuf := rfl
@[simp] theorem clearError_outBuf (s : State) : (clearError s).outBuf = s.outBuf := rfl
@[simp] theorem clearError_cand (s : State) : (clearError s).cand = s.cand := rfl
@[simp] theorem clearError_inCap (s : State) : (clearError s).inCap = s.inCap := rfl
@[simp] theorem clearError_outCap (s : State) : (clearError s).outCap = s.outCap := rfl
@[simp] theorem clearError_inHostBase (s : State) : (clearError s).inHostBase = s.inHostBase := rfl
@[simp] theorem clearError_outHostBase (s : State) : (clearError s).outHostBase = s.outHostBase := rfl
@[simp] theorem clearError_regBase (s : State) : (clearError s).regBase = s.regBase := rfl
@[simp] theorem clearError_host (s : State) : (clearError s).host = s.host := rfl
@[simp] theorem clearError_hostData (s : State) : (clearError s).hostData = s.hostData := rfl
@[simp] theorem clearError_draws (s : State) : (clearError s).draws = s.draws := rfl

/-! ### beginCommand: The start both commands share. -/

@[simp] theorem beginCommand_cfg (op : BitVec 2) (s : State) : (beginCommand op s).cfg = s.cfg := rfl
@[simp] theorem beginCommand_status (op : BitVec 2) (s : State) : (beginCommand op s).status = statusStart s.status op .busy := rfl
@[simp] theorem beginCommand_err (op : BitVec 2) (s : State) : (beginCommand op s).err = 0 := rfl
@[simp] theorem beginCommand_inLen (op : BitVec 2) (s : State) : (beginCommand op s).inLen = s.inLen := rfl
@[simp] theorem beginCommand_outLen (op : BitVec 2) (s : State) : (beginCommand op s).outLen = 0 := rfl
@[simp] theorem beginCommand_faultIp (op : BitVec 2) (s : State) : (beginCommand op s).faultIp = 0 := rfl
@[simp] theorem beginCommand_faultPos (op : BitVec 2) (s : State) : (beginCommand op s).faultPos = 0 := rfl
@[simp] theorem beginCommand_dstate (op : BitVec 2) (s : State) : (beginCommand op s).dstate = s.dstate := rfl
@[simp] theorem beginCommand_ip (op : BitVec 2) (s : State) : (beginCommand op s).ip = s.ip := rfl
@[simp] theorem beginCommand_chunkEnd (op : BitVec 2) (s : State) : (beginCommand op s).chunkEnd = s.chunkEnd := rfl
@[simp] theorem beginCommand_size (op : BitVec 2) (s : State) : (beginCommand op s).size = s.size := rfl
@[simp] theorem beginCommand_cflag (op : BitVec 2) (s : State) : (beginCommand op s).cflag = s.cflag := rfl
@[simp] theorem beginCommand_pos (op : BitVec 2) (s : State) : (beginCommand op s).pos = s.pos := rfl
@[simp] theorem beginCommand_olen (op : BitVec 2) (s : State) : (beginCommand op s).olen = 0 := rfl
@[simp] theorem beginCommand_outBase (op : BitVec 2) (s : State) : (beginCommand op s).outBase = s.outBase := rfl
@[simp] theorem beginCommand_tag (op : BitVec 2) (s : State) : (beginCommand op s).tag = s.tag := rfl
@[simp] theorem beginCommand_idx (op : BitVec 2) (s : State) : (beginCommand op s).idx = s.idx := rfl
@[simp] theorem beginCommand_strictL (op : BitVec 2) (s : State) : (beginCommand op s).strictL = s.strict := rfl
@[simp] theorem beginCommand_estate (op : BitVec 2) (s : State) : (beginCommand op s).estate = s.estate := rfl
@[simp] theorem beginCommand_sliceBase (op : BitVec 2) (s : State) : (beginCommand op s).sliceBase = s.sliceBase := rfl
@[simp] theorem beginCommand_sliceLen (op : BitVec 2) (s : State) : (beginCommand op s).sliceLen = s.sliceLen := rfl
@[simp] theorem beginCommand_epos (op : BitVec 2) (s : State) : (beginCommand op s).epos = s.epos := rfl
@[simp] theorem beginCommand_candLen (op : BitVec 2) (s : State) : (beginCommand op s).candLen = s.candLen := rfl
@[simp] theorem beginCommand_etagAt (op : BitVec 2) (s : State) : (beginCommand op s).etagAt = s.etagAt := rfl
@[simp] theorem beginCommand_eidx (op : BitVec 2) (s : State) : (beginCommand op s).eidx = s.eidx := rfl
@[simp] theorem beginCommand_mfIndex (op : BitVec 2) (s : State) : (beginCommand op s).mfIndex = s.mfIndex := rfl
@[simp] theorem beginCommand_inBuf (op : BitVec 2) (s : State) : (beginCommand op s).inBuf = s.inBuf := rfl
@[simp] theorem beginCommand_outBuf (op : BitVec 2) (s : State) : (beginCommand op s).outBuf = s.outBuf := rfl
@[simp] theorem beginCommand_cand (op : BitVec 2) (s : State) : (beginCommand op s).cand = s.cand := rfl
@[simp] theorem beginCommand_inCap (op : BitVec 2) (s : State) : (beginCommand op s).inCap = s.inCap := rfl
@[simp] theorem beginCommand_outCap (op : BitVec 2) (s : State) : (beginCommand op s).outCap = s.outCap := rfl
@[simp] theorem beginCommand_inHostBase (op : BitVec 2) (s : State) : (beginCommand op s).inHostBase = s.inHostBase := rfl
@[simp] theorem beginCommand_outHostBase (op : BitVec 2) (s : State) : (beginCommand op s).outHostBase = s.outHostBase := rfl
@[simp] theorem beginCommand_regBase (op : BitVec 2) (s : State) : (beginCommand op s).regBase = s.regBase := rfl
@[simp] theorem beginCommand_host (op : BitVec 2) (s : State) : (beginCommand op s).host = s.host := rfl
@[simp] theorem beginCommand_hostData (op : BitVec 2) (s : State) : (beginCommand op s).hostData = s.hostData := rfl
@[simp] theorem beginCommand_draws (op : BitVec 2) (s : State) : (beginCommand op s).draws = s.draws := rfl

/-! ### startDecompress: The start of DECOMPRESS (R170). -/

@[simp] theorem startDecompress_cfg (s : State) : (startDecompress s).cfg = s.cfg := rfl
@[simp] theorem startDecompress_status (s : State) : (startDecompress s).status = statusStart s.status 2#2 .busy := rfl
@[simp] theorem startDecompress_err (s : State) : (startDecompress s).err = 0 := rfl
@[simp] theorem startDecompress_inLen (s : State) : (startDecompress s).inLen = s.inLen := rfl
@[simp] theorem startDecompress_outLen (s : State) : (startDecompress s).outLen = 0 := rfl
@[simp] theorem startDecompress_faultIp (s : State) : (startDecompress s).faultIp = 0 := rfl
@[simp] theorem startDecompress_faultPos (s : State) : (startDecompress s).faultPos = 0 := rfl
@[simp] theorem startDecompress_dstate (s : State) : (startDecompress s).dstate = .hdr := rfl
@[simp] theorem startDecompress_ip (s : State) : (startDecompress s).ip = 0 := rfl
@[simp] theorem startDecompress_chunkEnd (s : State) : (startDecompress s).chunkEnd = 0 := rfl
@[simp] theorem startDecompress_size (s : State) : (startDecompress s).size = 0 := rfl
@[simp] theorem startDecompress_cflag (s : State) : (startDecompress s).cflag = false := rfl
@[simp] theorem startDecompress_pos (s : State) : (startDecompress s).pos = 0 := rfl
@[simp] theorem startDecompress_olen (s : State) : (startDecompress s).olen = 0 := rfl
@[simp] theorem startDecompress_outBase (s : State) : (startDecompress s).outBase = 0 := rfl
@[simp] theorem startDecompress_tag (s : State) : (startDecompress s).tag = 0 := rfl
@[simp] theorem startDecompress_idx (s : State) : (startDecompress s).idx = 0 := rfl
@[simp] theorem startDecompress_strictL (s : State) : (startDecompress s).strictL = s.strict := rfl
@[simp] theorem startDecompress_estate (s : State) : (startDecompress s).estate = s.estate := rfl
@[simp] theorem startDecompress_sliceBase (s : State) : (startDecompress s).sliceBase = s.sliceBase := rfl
@[simp] theorem startDecompress_sliceLen (s : State) : (startDecompress s).sliceLen = s.sliceLen := rfl
@[simp] theorem startDecompress_epos (s : State) : (startDecompress s).epos = s.epos := rfl
@[simp] theorem startDecompress_candLen (s : State) : (startDecompress s).candLen = s.candLen := rfl
@[simp] theorem startDecompress_etagAt (s : State) : (startDecompress s).etagAt = s.etagAt := rfl
@[simp] theorem startDecompress_eidx (s : State) : (startDecompress s).eidx = s.eidx := rfl
@[simp] theorem startDecompress_mfIndex (s : State) : (startDecompress s).mfIndex = s.mfIndex := rfl
@[simp] theorem startDecompress_inBuf (s : State) : (startDecompress s).inBuf = s.inBuf := rfl
@[simp] theorem startDecompress_outBuf (s : State) : (startDecompress s).outBuf = s.outBuf := rfl
@[simp] theorem startDecompress_cand (s : State) : (startDecompress s).cand = s.cand := rfl
@[simp] theorem startDecompress_inCap (s : State) : (startDecompress s).inCap = s.inCap := rfl
@[simp] theorem startDecompress_outCap (s : State) : (startDecompress s).outCap = s.outCap := rfl
@[simp] theorem startDecompress_inHostBase (s : State) : (startDecompress s).inHostBase = s.inHostBase := rfl
@[simp] theorem startDecompress_outHostBase (s : State) : (startDecompress s).outHostBase = s.outHostBase := rfl
@[simp] theorem startDecompress_regBase (s : State) : (startDecompress s).regBase = s.regBase := rfl
@[simp] theorem startDecompress_host (s : State) : (startDecompress s).host = s.host := rfl
@[simp] theorem startDecompress_hostData (s : State) : (startDecompress s).hostData = s.hostData := rfl
@[simp] theorem startDecompress_draws (s : State) : (startDecompress s).draws = s.draws := rfl

/-! ### startCompress: The start of COMPRESS (R200). -/

@[simp] theorem startCompress_cfg (s : State) : (startCompress s).cfg = s.cfg := rfl
@[simp] theorem startCompress_status (s : State) : (startCompress s).status = statusStart s.status 1#2 .busy := rfl
@[simp] theorem startCompress_err (s : State) : (startCompress s).err = 0 := rfl
@[simp] theorem startCompress_inLen (s : State) : (startCompress s).inLen = s.inLen := rfl
@[simp] theorem startCompress_outLen (s : State) : (startCompress s).outLen = 0 := rfl
@[simp] theorem startCompress_faultIp (s : State) : (startCompress s).faultIp = 0 := rfl
@[simp] theorem startCompress_faultPos (s : State) : (startCompress s).faultPos = 0 := rfl
@[simp] theorem startCompress_dstate (s : State) : (startCompress s).dstate = s.dstate := rfl
@[simp] theorem startCompress_ip (s : State) : (startCompress s).ip = s.ip := rfl
@[simp] theorem startCompress_chunkEnd (s : State) : (startCompress s).chunkEnd = s.chunkEnd := rfl
@[simp] theorem startCompress_size (s : State) : (startCompress s).size = s.size := rfl
@[simp] theorem startCompress_cflag (s : State) : (startCompress s).cflag = s.cflag := rfl
@[simp] theorem startCompress_pos (s : State) : (startCompress s).pos = s.pos := rfl
@[simp] theorem startCompress_olen (s : State) : (startCompress s).olen = 0 := rfl
@[simp] theorem startCompress_outBase (s : State) : (startCompress s).outBase = s.outBase := rfl
@[simp] theorem startCompress_tag (s : State) : (startCompress s).tag = s.tag := rfl
@[simp] theorem startCompress_idx (s : State) : (startCompress s).idx = s.idx := rfl
@[simp] theorem startCompress_strictL (s : State) : (startCompress s).strictL = s.strict := rfl
@[simp] theorem startCompress_estate (s : State) : (startCompress s).estate = .slice := rfl
@[simp] theorem startCompress_sliceBase (s : State) : (startCompress s).sliceBase = 0 := rfl
@[simp] theorem startCompress_sliceLen (s : State) : (startCompress s).sliceLen = 0 := rfl
@[simp] theorem startCompress_epos (s : State) : (startCompress s).epos = 0 := rfl
@[simp] theorem startCompress_candLen (s : State) : (startCompress s).candLen = 0 := rfl
@[simp] theorem startCompress_etagAt (s : State) : (startCompress s).etagAt = 0 := rfl
@[simp] theorem startCompress_eidx (s : State) : (startCompress s).eidx = 8#4 := rfl
@[simp] theorem startCompress_mfIndex (s : State) : (startCompress s).mfIndex = s.mfIndex := rfl
@[simp] theorem startCompress_inBuf (s : State) : (startCompress s).inBuf = s.inBuf := rfl
@[simp] theorem startCompress_outBuf (s : State) : (startCompress s).outBuf = s.outBuf := rfl
@[simp] theorem startCompress_cand (s : State) : (startCompress s).cand = s.cand := rfl
@[simp] theorem startCompress_inCap (s : State) : (startCompress s).inCap = s.inCap := rfl
@[simp] theorem startCompress_outCap (s : State) : (startCompress s).outCap = s.outCap := rfl
@[simp] theorem startCompress_inHostBase (s : State) : (startCompress s).inHostBase = s.inHostBase := rfl
@[simp] theorem startCompress_outHostBase (s : State) : (startCompress s).outHostBase = s.outHostBase := rfl
@[simp] theorem startCompress_regBase (s : State) : (startCompress s).regBase = s.regBase := rfl
@[simp] theorem startCompress_host (s : State) : (startCompress s).host = s.host := rfl
@[simp] theorem startCompress_hostData (s : State) : (startCompress s).hostData = s.hostData := rfl
@[simp] theorem startCompress_draws (s : State) : (startCompress s).draws = s.draws := rfl

/-! ### finishDecompress: The end of DECOMPRESS (R178). -/

@[simp] theorem finishDecompress_cfg (s : State) : (finishDecompress s).cfg = s.cfg := rfl
@[simp] theorem finishDecompress_status (s : State) : (finishDecompress s).status = statusSetState s.status .done := rfl
@[simp] theorem finishDecompress_err (s : State) : (finishDecompress s).err = s.err := rfl
@[simp] theorem finishDecompress_inLen (s : State) : (finishDecompress s).inLen = s.inLen := rfl
@[simp] theorem finishDecompress_outLen (s : State) : (finishDecompress s).outLen = s.olen := rfl
@[simp] theorem finishDecompress_faultIp (s : State) : (finishDecompress s).faultIp = s.faultIp := rfl
@[simp] theorem finishDecompress_faultPos (s : State) : (finishDecompress s).faultPos = s.faultPos := rfl
@[simp] theorem finishDecompress_dstate (s : State) : (finishDecompress s).dstate = .done := rfl
@[simp] theorem finishDecompress_ip (s : State) : (finishDecompress s).ip = s.ip := rfl
@[simp] theorem finishDecompress_chunkEnd (s : State) : (finishDecompress s).chunkEnd = s.chunkEnd := rfl
@[simp] theorem finishDecompress_size (s : State) : (finishDecompress s).size = s.size := rfl
@[simp] theorem finishDecompress_cflag (s : State) : (finishDecompress s).cflag = s.cflag := rfl
@[simp] theorem finishDecompress_pos (s : State) : (finishDecompress s).pos = s.pos := rfl
@[simp] theorem finishDecompress_olen (s : State) : (finishDecompress s).olen = s.olen := rfl
@[simp] theorem finishDecompress_outBase (s : State) : (finishDecompress s).outBase = s.outBase := rfl
@[simp] theorem finishDecompress_tag (s : State) : (finishDecompress s).tag = s.tag := rfl
@[simp] theorem finishDecompress_idx (s : State) : (finishDecompress s).idx = s.idx := rfl
@[simp] theorem finishDecompress_strictL (s : State) : (finishDecompress s).strictL = s.strictL := rfl
@[simp] theorem finishDecompress_estate (s : State) : (finishDecompress s).estate = s.estate := rfl
@[simp] theorem finishDecompress_sliceBase (s : State) : (finishDecompress s).sliceBase = s.sliceBase := rfl
@[simp] theorem finishDecompress_sliceLen (s : State) : (finishDecompress s).sliceLen = s.sliceLen := rfl
@[simp] theorem finishDecompress_epos (s : State) : (finishDecompress s).epos = s.epos := rfl
@[simp] theorem finishDecompress_candLen (s : State) : (finishDecompress s).candLen = s.candLen := rfl
@[simp] theorem finishDecompress_etagAt (s : State) : (finishDecompress s).etagAt = s.etagAt := rfl
@[simp] theorem finishDecompress_eidx (s : State) : (finishDecompress s).eidx = s.eidx := rfl
@[simp] theorem finishDecompress_mfIndex (s : State) : (finishDecompress s).mfIndex = s.mfIndex := rfl
@[simp] theorem finishDecompress_inBuf (s : State) : (finishDecompress s).inBuf = s.inBuf := rfl
@[simp] theorem finishDecompress_outBuf (s : State) : (finishDecompress s).outBuf = s.outBuf := rfl
@[simp] theorem finishDecompress_cand (s : State) : (finishDecompress s).cand = s.cand := rfl
@[simp] theorem finishDecompress_inCap (s : State) : (finishDecompress s).inCap = s.inCap := rfl
@[simp] theorem finishDecompress_outCap (s : State) : (finishDecompress s).outCap = s.outCap := rfl
@[simp] theorem finishDecompress_inHostBase (s : State) : (finishDecompress s).inHostBase = s.inHostBase := rfl
@[simp] theorem finishDecompress_outHostBase (s : State) : (finishDecompress s).outHostBase = s.outHostBase := rfl
@[simp] theorem finishDecompress_regBase (s : State) : (finishDecompress s).regBase = s.regBase := rfl
@[simp] theorem finishDecompress_host (s : State) : (finishDecompress s).host = s.host := rfl
@[simp] theorem finishDecompress_hostData (s : State) : (finishDecompress s).hostData = s.hostData := rfl
@[simp] theorem finishDecompress_draws (s : State) : (finishDecompress s).draws = s.draws := rfl

/-! ### finishCompress: The end of COMPRESS (R206). -/

@[simp] theorem finishCompress_cfg (s : State) : (finishCompress s).cfg = s.cfg := rfl
@[simp] theorem finishCompress_status (s : State) : (finishCompress s).status = statusSetState s.status .done := rfl
@[simp] theorem finishCompress_err (s : State) : (finishCompress s).err = s.err := rfl
@[simp] theorem finishCompress_inLen (s : State) : (finishCompress s).inLen = s.inLen := rfl
@[simp] theorem finishCompress_outLen (s : State) : (finishCompress s).outLen = s.olen := rfl
@[simp] theorem finishCompress_faultIp (s : State) : (finishCompress s).faultIp = s.faultIp := rfl
@[simp] theorem finishCompress_faultPos (s : State) : (finishCompress s).faultPos = s.faultPos := rfl
@[simp] theorem finishCompress_dstate (s : State) : (finishCompress s).dstate = s.dstate := rfl
@[simp] theorem finishCompress_ip (s : State) : (finishCompress s).ip = s.ip := rfl
@[simp] theorem finishCompress_chunkEnd (s : State) : (finishCompress s).chunkEnd = s.chunkEnd := rfl
@[simp] theorem finishCompress_size (s : State) : (finishCompress s).size = s.size := rfl
@[simp] theorem finishCompress_cflag (s : State) : (finishCompress s).cflag = s.cflag := rfl
@[simp] theorem finishCompress_pos (s : State) : (finishCompress s).pos = s.pos := rfl
@[simp] theorem finishCompress_olen (s : State) : (finishCompress s).olen = s.olen := rfl
@[simp] theorem finishCompress_outBase (s : State) : (finishCompress s).outBase = s.outBase := rfl
@[simp] theorem finishCompress_tag (s : State) : (finishCompress s).tag = s.tag := rfl
@[simp] theorem finishCompress_idx (s : State) : (finishCompress s).idx = s.idx := rfl
@[simp] theorem finishCompress_strictL (s : State) : (finishCompress s).strictL = s.strictL := rfl
@[simp] theorem finishCompress_estate (s : State) : (finishCompress s).estate = .done := rfl
@[simp] theorem finishCompress_sliceBase (s : State) : (finishCompress s).sliceBase = s.sliceBase := rfl
@[simp] theorem finishCompress_sliceLen (s : State) : (finishCompress s).sliceLen = s.sliceLen := rfl
@[simp] theorem finishCompress_epos (s : State) : (finishCompress s).epos = s.epos := rfl
@[simp] theorem finishCompress_candLen (s : State) : (finishCompress s).candLen = s.candLen := rfl
@[simp] theorem finishCompress_etagAt (s : State) : (finishCompress s).etagAt = s.etagAt := rfl
@[simp] theorem finishCompress_eidx (s : State) : (finishCompress s).eidx = s.eidx := rfl
@[simp] theorem finishCompress_mfIndex (s : State) : (finishCompress s).mfIndex = s.mfIndex := rfl
@[simp] theorem finishCompress_inBuf (s : State) : (finishCompress s).inBuf = s.inBuf := rfl
@[simp] theorem finishCompress_outBuf (s : State) : (finishCompress s).outBuf = s.outBuf := rfl
@[simp] theorem finishCompress_cand (s : State) : (finishCompress s).cand = s.cand := rfl
@[simp] theorem finishCompress_inCap (s : State) : (finishCompress s).inCap = s.inCap := rfl
@[simp] theorem finishCompress_outCap (s : State) : (finishCompress s).outCap = s.outCap := rfl
@[simp] theorem finishCompress_inHostBase (s : State) : (finishCompress s).inHostBase = s.inHostBase := rfl
@[simp] theorem finishCompress_outHostBase (s : State) : (finishCompress s).outHostBase = s.outHostBase := rfl
@[simp] theorem finishCompress_regBase (s : State) : (finishCompress s).regBase = s.regBase := rfl
@[simp] theorem finishCompress_host (s : State) : (finishCompress s).host = s.host := rfl
@[simp] theorem finishCompress_hostData (s : State) : (finishCompress s).hostData = s.hostData := rfl
@[simp] theorem finishCompress_draws (s : State) : (finishCompress s).draws = s.draws := rfl

/-! ### putOut: One append (R62). -/

@[simp] theorem putOut_cfg (b : Byte) (s : State) : (putOut b s).cfg = s.cfg := rfl
@[simp] theorem putOut_status (b : Byte) (s : State) : (putOut b s).status = s.status := rfl
@[simp] theorem putOut_err (b : Byte) (s : State) : (putOut b s).err = s.err := rfl
@[simp] theorem putOut_inLen (b : Byte) (s : State) : (putOut b s).inLen = s.inLen := rfl
@[simp] theorem putOut_outLen (b : Byte) (s : State) : (putOut b s).outLen = s.outLen := rfl
@[simp] theorem putOut_faultIp (b : Byte) (s : State) : (putOut b s).faultIp = s.faultIp := rfl
@[simp] theorem putOut_faultPos (b : Byte) (s : State) : (putOut b s).faultPos = s.faultPos := rfl
@[simp] theorem putOut_dstate (b : Byte) (s : State) : (putOut b s).dstate = s.dstate := rfl
@[simp] theorem putOut_ip (b : Byte) (s : State) : (putOut b s).ip = s.ip := rfl
@[simp] theorem putOut_chunkEnd (b : Byte) (s : State) : (putOut b s).chunkEnd = s.chunkEnd := rfl
@[simp] theorem putOut_size (b : Byte) (s : State) : (putOut b s).size = s.size := rfl
@[simp] theorem putOut_cflag (b : Byte) (s : State) : (putOut b s).cflag = s.cflag := rfl
@[simp] theorem putOut_pos (b : Byte) (s : State) : (putOut b s).pos = s.pos := rfl
@[simp] theorem putOut_olen (b : Byte) (s : State) : (putOut b s).olen = s.olen + 1 := rfl
@[simp] theorem putOut_outBase (b : Byte) (s : State) : (putOut b s).outBase = s.outBase := rfl
@[simp] theorem putOut_tag (b : Byte) (s : State) : (putOut b s).tag = s.tag := rfl
@[simp] theorem putOut_idx (b : Byte) (s : State) : (putOut b s).idx = s.idx := rfl
@[simp] theorem putOut_strictL (b : Byte) (s : State) : (putOut b s).strictL = s.strictL := rfl
@[simp] theorem putOut_estate (b : Byte) (s : State) : (putOut b s).estate = s.estate := rfl
@[simp] theorem putOut_sliceBase (b : Byte) (s : State) : (putOut b s).sliceBase = s.sliceBase := rfl
@[simp] theorem putOut_sliceLen (b : Byte) (s : State) : (putOut b s).sliceLen = s.sliceLen := rfl
@[simp] theorem putOut_epos (b : Byte) (s : State) : (putOut b s).epos = s.epos := rfl
@[simp] theorem putOut_candLen (b : Byte) (s : State) : (putOut b s).candLen = s.candLen := rfl
@[simp] theorem putOut_etagAt (b : Byte) (s : State) : (putOut b s).etagAt = s.etagAt := rfl
@[simp] theorem putOut_eidx (b : Byte) (s : State) : (putOut b s).eidx = s.eidx := rfl
@[simp] theorem putOut_mfIndex (b : Byte) (s : State) : (putOut b s).mfIndex = s.mfIndex := rfl
@[simp] theorem putOut_inBuf (b : Byte) (s : State) : (putOut b s).inBuf = s.inBuf := rfl
@[simp] theorem putOut_outBuf (b : Byte) (s : State) : (putOut b s).outBuf = s.outBuf.write s.olen.toNat b := rfl
@[simp] theorem putOut_cand (b : Byte) (s : State) : (putOut b s).cand = s.cand := rfl
@[simp] theorem putOut_inCap (b : Byte) (s : State) : (putOut b s).inCap = s.inCap := rfl
@[simp] theorem putOut_outCap (b : Byte) (s : State) : (putOut b s).outCap = s.outCap := rfl
@[simp] theorem putOut_inHostBase (b : Byte) (s : State) : (putOut b s).inHostBase = s.inHostBase := rfl
@[simp] theorem putOut_outHostBase (b : Byte) (s : State) : (putOut b s).outHostBase = s.outHostBase := rfl
@[simp] theorem putOut_regBase (b : Byte) (s : State) : (putOut b s).regBase = s.regBase := rfl
@[simp] theorem putOut_host (b : Byte) (s : State) : (putOut b s).host = s.host := rfl
@[simp] theorem putOut_hostData (b : Byte) (s : State) : (putOut b s).hostData = s.hostData := rfl
@[simp] theorem putOut_draws (b : Byte) (s : State) : (putOut b s).draws = s.draws := rfl

/-! ### chunkSetup: Chunk setup (R175). -/

@[simp] theorem chunkSetup_cfg (c : Bool) (m : BitVec 12) (s : State) : (chunkSetup c m s).cfg = s.cfg := rfl
@[simp] theorem chunkSetup_status (c : Bool) (m : BitVec 12) (s : State) : (chunkSetup c m s).status = s.status := rfl
@[simp] theorem chunkSetup_err (c : Bool) (m : BitVec 12) (s : State) : (chunkSetup c m s).err = s.err := rfl
@[simp] theorem chunkSetup_inLen (c : Bool) (m : BitVec 12) (s : State) : (chunkSetup c m s).inLen = s.inLen := rfl
@[simp] theorem chunkSetup_outLen (c : Bool) (m : BitVec 12) (s : State) : (chunkSetup c m s).outLen = s.outLen := rfl
@[simp] theorem chunkSetup_faultIp (c : Bool) (m : BitVec 12) (s : State) : (chunkSetup c m s).faultIp = s.faultIp := rfl
@[simp] theorem chunkSetup_faultPos (c : Bool) (m : BitVec 12) (s : State) : (chunkSetup c m s).faultPos = s.faultPos := rfl
@[simp] theorem chunkSetup_dstate (c : Bool) (m : BitVec 12) (s : State) : (chunkSetup c m s).dstate = if c then .tag else .raw := rfl
@[simp] theorem chunkSetup_ip (c : Bool) (m : BitVec 12) (s : State) : (chunkSetup c m s).ip = s.ip + 2 := rfl
@[simp] theorem chunkSetup_chunkEnd (c : Bool) (m : BitVec 12) (s : State) : (chunkSetup c m s).chunkEnd = s.ip + 2 + (chunkSize m).setWidth 33 := rfl
@[simp] theorem chunkSetup_size (c : Bool) (m : BitVec 12) (s : State) : (chunkSetup c m s).size = chunkSize m := rfl
@[simp] theorem chunkSetup_cflag (c : Bool) (m : BitVec 12) (s : State) : (chunkSetup c m s).cflag = c := rfl
@[simp] theorem chunkSetup_pos (c : Bool) (m : BitVec 12) (s : State) : (chunkSetup c m s).pos = 0 := rfl
@[simp] theorem chunkSetup_olen (c : Bool) (m : BitVec 12) (s : State) : (chunkSetup c m s).olen = s.olen := rfl
@[simp] theorem chunkSetup_outBase (c : Bool) (m : BitVec 12) (s : State) : (chunkSetup c m s).outBase = s.olen := rfl
@[simp] theorem chunkSetup_tag (c : Bool) (m : BitVec 12) (s : State) : (chunkSetup c m s).tag = s.tag := rfl
@[simp] theorem chunkSetup_idx (c : Bool) (m : BitVec 12) (s : State) : (chunkSetup c m s).idx = s.idx := rfl
@[simp] theorem chunkSetup_strictL (c : Bool) (m : BitVec 12) (s : State) : (chunkSetup c m s).strictL = s.strictL := rfl
@[simp] theorem chunkSetup_estate (c : Bool) (m : BitVec 12) (s : State) : (chunkSetup c m s).estate = s.estate := rfl
@[simp] theorem chunkSetup_sliceBase (c : Bool) (m : BitVec 12) (s : State) : (chunkSetup c m s).sliceBase = s.sliceBase := rfl
@[simp] theorem chunkSetup_sliceLen (c : Bool) (m : BitVec 12) (s : State) : (chunkSetup c m s).sliceLen = s.sliceLen := rfl
@[simp] theorem chunkSetup_epos (c : Bool) (m : BitVec 12) (s : State) : (chunkSetup c m s).epos = s.epos := rfl
@[simp] theorem chunkSetup_candLen (c : Bool) (m : BitVec 12) (s : State) : (chunkSetup c m s).candLen = s.candLen := rfl
@[simp] theorem chunkSetup_etagAt (c : Bool) (m : BitVec 12) (s : State) : (chunkSetup c m s).etagAt = s.etagAt := rfl
@[simp] theorem chunkSetup_eidx (c : Bool) (m : BitVec 12) (s : State) : (chunkSetup c m s).eidx = s.eidx := rfl
@[simp] theorem chunkSetup_mfIndex (c : Bool) (m : BitVec 12) (s : State) : (chunkSetup c m s).mfIndex = s.mfIndex := rfl
@[simp] theorem chunkSetup_inBuf (c : Bool) (m : BitVec 12) (s : State) : (chunkSetup c m s).inBuf = s.inBuf := rfl
@[simp] theorem chunkSetup_outBuf (c : Bool) (m : BitVec 12) (s : State) : (chunkSetup c m s).outBuf = s.outBuf := rfl
@[simp] theorem chunkSetup_cand (c : Bool) (m : BitVec 12) (s : State) : (chunkSetup c m s).cand = s.cand := rfl
@[simp] theorem chunkSetup_inCap (c : Bool) (m : BitVec 12) (s : State) : (chunkSetup c m s).inCap = s.inCap := rfl
@[simp] theorem chunkSetup_outCap (c : Bool) (m : BitVec 12) (s : State) : (chunkSetup c m s).outCap = s.outCap := rfl
@[simp] theorem chunkSetup_inHostBase (c : Bool) (m : BitVec 12) (s : State) : (chunkSetup c m s).inHostBase = s.inHostBase := rfl
@[simp] theorem chunkSetup_outHostBase (c : Bool) (m : BitVec 12) (s : State) : (chunkSetup c m s).outHostBase = s.outHostBase := rfl
@[simp] theorem chunkSetup_regBase (c : Bool) (m : BitVec 12) (s : State) : (chunkSetup c m s).regBase = s.regBase := rfl
@[simp] theorem chunkSetup_host (c : Bool) (m : BitVec 12) (s : State) : (chunkSetup c m s).host = s.host := rfl
@[simp] theorem chunkSetup_hostData (c : Bool) (m : BitVec 12) (s : State) : (chunkSetup c m s).hostData = s.hostData := rfl
@[simp] theorem chunkSetup_draws (c : Bool) (m : BitVec 12) (s : State) : (chunkSetup c m s).draws = s.draws := rfl

/-! ### advance: The encoder's advance (R224). -/

@[simp] theorem advance_cfg (n : Nat) (s : State) : (advance n s).cfg = s.cfg := rfl
@[simp] theorem advance_status (n : Nat) (s : State) : (advance n s).status = s.status := rfl
@[simp] theorem advance_err (n : Nat) (s : State) : (advance n s).err = s.err := rfl
@[simp] theorem advance_inLen (n : Nat) (s : State) : (advance n s).inLen = s.inLen := rfl
@[simp] theorem advance_outLen (n : Nat) (s : State) : (advance n s).outLen = s.outLen := rfl
@[simp] theorem advance_faultIp (n : Nat) (s : State) : (advance n s).faultIp = s.faultIp := rfl
@[simp] theorem advance_faultPos (n : Nat) (s : State) : (advance n s).faultPos = s.faultPos := rfl
@[simp] theorem advance_dstate (n : Nat) (s : State) : (advance n s).dstate = s.dstate := rfl
@[simp] theorem advance_ip (n : Nat) (s : State) : (advance n s).ip = s.ip := rfl
@[simp] theorem advance_chunkEnd (n : Nat) (s : State) : (advance n s).chunkEnd = s.chunkEnd := rfl
@[simp] theorem advance_size (n : Nat) (s : State) : (advance n s).size = s.size := rfl
@[simp] theorem advance_cflag (n : Nat) (s : State) : (advance n s).cflag = s.cflag := rfl
@[simp] theorem advance_pos (n : Nat) (s : State) : (advance n s).pos = s.pos := rfl
@[simp] theorem advance_olen (n : Nat) (s : State) : (advance n s).olen = s.olen := rfl
@[simp] theorem advance_outBase (n : Nat) (s : State) : (advance n s).outBase = s.outBase := rfl
@[simp] theorem advance_tag (n : Nat) (s : State) : (advance n s).tag = s.tag := rfl
@[simp] theorem advance_idx (n : Nat) (s : State) : (advance n s).idx = s.idx := rfl
@[simp] theorem advance_strictL (n : Nat) (s : State) : (advance n s).strictL = s.strictL := rfl
@[simp] theorem advance_estate (n : Nat) (s : State) : (advance n s).estate = s.estate := rfl
@[simp] theorem advance_sliceBase (n : Nat) (s : State) : (advance n s).sliceBase = s.sliceBase := rfl
@[simp] theorem advance_sliceLen (n : Nat) (s : State) : (advance n s).sliceLen = s.sliceLen := rfl
@[simp] theorem advance_epos (n : Nat) (s : State) : (advance n s).epos = s.epos + BitVec.ofNat 13 n := rfl
@[simp] theorem advance_candLen (n : Nat) (s : State) : (advance n s).candLen = s.candLen := rfl
@[simp] theorem advance_etagAt (n : Nat) (s : State) : (advance n s).etagAt = s.etagAt := rfl
@[simp] theorem advance_eidx (n : Nat) (s : State) : (advance n s).eidx = s.eidx := rfl
@[simp] theorem advance_mfIndex (n : Nat) (s : State) : (advance n s).mfIndex = ((List.range n).map (s.epos.toNat + ·)).reverse ++ s.mfIndex := rfl
@[simp] theorem advance_inBuf (n : Nat) (s : State) : (advance n s).inBuf = s.inBuf := rfl
@[simp] theorem advance_outBuf (n : Nat) (s : State) : (advance n s).outBuf = s.outBuf := rfl
@[simp] theorem advance_cand (n : Nat) (s : State) : (advance n s).cand = s.cand := rfl
@[simp] theorem advance_inCap (n : Nat) (s : State) : (advance n s).inCap = s.inCap := rfl
@[simp] theorem advance_outCap (n : Nat) (s : State) : (advance n s).outCap = s.outCap := rfl
@[simp] theorem advance_inHostBase (n : Nat) (s : State) : (advance n s).inHostBase = s.inHostBase := rfl
@[simp] theorem advance_outHostBase (n : Nat) (s : State) : (advance n s).outHostBase = s.outHostBase := rfl
@[simp] theorem advance_regBase (n : Nat) (s : State) : (advance n s).regBase = s.regBase := rfl
@[simp] theorem advance_host (n : Nat) (s : State) : (advance n s).host = s.host := rfl
@[simp] theorem advance_hostData (n : Nat) (s : State) : (advance n s).hostData = s.hostData := rfl
@[simp] theorem advance_draws (n : Nat) (s : State) : (advance n s).draws = s.draws := rfl

/-! ### giveHost: An exact host read. -/

@[simp] theorem giveHost_cfg (w : Word) (s : State) : (giveHost w s).cfg = s.cfg := rfl
@[simp] theorem giveHost_status (w : Word) (s : State) : (giveHost w s).status = s.status := rfl
@[simp] theorem giveHost_err (w : Word) (s : State) : (giveHost w s).err = s.err := rfl
@[simp] theorem giveHost_inLen (w : Word) (s : State) : (giveHost w s).inLen = s.inLen := rfl
@[simp] theorem giveHost_outLen (w : Word) (s : State) : (giveHost w s).outLen = s.outLen := rfl
@[simp] theorem giveHost_faultIp (w : Word) (s : State) : (giveHost w s).faultIp = s.faultIp := rfl
@[simp] theorem giveHost_faultPos (w : Word) (s : State) : (giveHost w s).faultPos = s.faultPos := rfl
@[simp] theorem giveHost_dstate (w : Word) (s : State) : (giveHost w s).dstate = s.dstate := rfl
@[simp] theorem giveHost_ip (w : Word) (s : State) : (giveHost w s).ip = s.ip := rfl
@[simp] theorem giveHost_chunkEnd (w : Word) (s : State) : (giveHost w s).chunkEnd = s.chunkEnd := rfl
@[simp] theorem giveHost_size (w : Word) (s : State) : (giveHost w s).size = s.size := rfl
@[simp] theorem giveHost_cflag (w : Word) (s : State) : (giveHost w s).cflag = s.cflag := rfl
@[simp] theorem giveHost_pos (w : Word) (s : State) : (giveHost w s).pos = s.pos := rfl
@[simp] theorem giveHost_olen (w : Word) (s : State) : (giveHost w s).olen = s.olen := rfl
@[simp] theorem giveHost_outBase (w : Word) (s : State) : (giveHost w s).outBase = s.outBase := rfl
@[simp] theorem giveHost_tag (w : Word) (s : State) : (giveHost w s).tag = s.tag := rfl
@[simp] theorem giveHost_idx (w : Word) (s : State) : (giveHost w s).idx = s.idx := rfl
@[simp] theorem giveHost_strictL (w : Word) (s : State) : (giveHost w s).strictL = s.strictL := rfl
@[simp] theorem giveHost_estate (w : Word) (s : State) : (giveHost w s).estate = s.estate := rfl
@[simp] theorem giveHost_sliceBase (w : Word) (s : State) : (giveHost w s).sliceBase = s.sliceBase := rfl
@[simp] theorem giveHost_sliceLen (w : Word) (s : State) : (giveHost w s).sliceLen = s.sliceLen := rfl
@[simp] theorem giveHost_epos (w : Word) (s : State) : (giveHost w s).epos = s.epos := rfl
@[simp] theorem giveHost_candLen (w : Word) (s : State) : (giveHost w s).candLen = s.candLen := rfl
@[simp] theorem giveHost_etagAt (w : Word) (s : State) : (giveHost w s).etagAt = s.etagAt := rfl
@[simp] theorem giveHost_eidx (w : Word) (s : State) : (giveHost w s).eidx = s.eidx := rfl
@[simp] theorem giveHost_mfIndex (w : Word) (s : State) : (giveHost w s).mfIndex = s.mfIndex := rfl
@[simp] theorem giveHost_inBuf (w : Word) (s : State) : (giveHost w s).inBuf = s.inBuf := rfl
@[simp] theorem giveHost_outBuf (w : Word) (s : State) : (giveHost w s).outBuf = s.outBuf := rfl
@[simp] theorem giveHost_cand (w : Word) (s : State) : (giveHost w s).cand = s.cand := rfl
@[simp] theorem giveHost_inCap (w : Word) (s : State) : (giveHost w s).inCap = s.inCap := rfl
@[simp] theorem giveHost_outCap (w : Word) (s : State) : (giveHost w s).outCap = s.outCap := rfl
@[simp] theorem giveHost_inHostBase (w : Word) (s : State) : (giveHost w s).inHostBase = s.inHostBase := rfl
@[simp] theorem giveHost_outHostBase (w : Word) (s : State) : (giveHost w s).outHostBase = s.outHostBase := rfl
@[simp] theorem giveHost_regBase (w : Word) (s : State) : (giveHost w s).regBase = s.regBase := rfl
@[simp] theorem giveHost_host (w : Word) (s : State) : (giveHost w s).host = s.host := rfl
@[simp] theorem giveHost_hostData (w : Word) (s : State) : (giveHost w s).hostData = w := rfl
@[simp] theorem giveHost_draws (w : Word) (s : State) : (giveHost w s).draws = s.draws := rfl

/-! ### giveFreeByte: A host read of any byte. -/

@[simp] theorem giveFreeByte_cfg (s : State) : (giveFreeByte s).cfg = s.cfg := rfl
@[simp] theorem giveFreeByte_status (s : State) : (giveFreeByte s).status = s.status := rfl
@[simp] theorem giveFreeByte_err (s : State) : (giveFreeByte s).err = s.err := rfl
@[simp] theorem giveFreeByte_inLen (s : State) : (giveFreeByte s).inLen = s.inLen := rfl
@[simp] theorem giveFreeByte_outLen (s : State) : (giveFreeByte s).outLen = s.outLen := rfl
@[simp] theorem giveFreeByte_faultIp (s : State) : (giveFreeByte s).faultIp = s.faultIp := rfl
@[simp] theorem giveFreeByte_faultPos (s : State) : (giveFreeByte s).faultPos = s.faultPos := rfl
@[simp] theorem giveFreeByte_dstate (s : State) : (giveFreeByte s).dstate = s.dstate := rfl
@[simp] theorem giveFreeByte_ip (s : State) : (giveFreeByte s).ip = s.ip := rfl
@[simp] theorem giveFreeByte_chunkEnd (s : State) : (giveFreeByte s).chunkEnd = s.chunkEnd := rfl
@[simp] theorem giveFreeByte_size (s : State) : (giveFreeByte s).size = s.size := rfl
@[simp] theorem giveFreeByte_cflag (s : State) : (giveFreeByte s).cflag = s.cflag := rfl
@[simp] theorem giveFreeByte_pos (s : State) : (giveFreeByte s).pos = s.pos := rfl
@[simp] theorem giveFreeByte_olen (s : State) : (giveFreeByte s).olen = s.olen := rfl
@[simp] theorem giveFreeByte_outBase (s : State) : (giveFreeByte s).outBase = s.outBase := rfl
@[simp] theorem giveFreeByte_tag (s : State) : (giveFreeByte s).tag = s.tag := rfl
@[simp] theorem giveFreeByte_idx (s : State) : (giveFreeByte s).idx = s.idx := rfl
@[simp] theorem giveFreeByte_strictL (s : State) : (giveFreeByte s).strictL = s.strictL := rfl
@[simp] theorem giveFreeByte_estate (s : State) : (giveFreeByte s).estate = s.estate := rfl
@[simp] theorem giveFreeByte_sliceBase (s : State) : (giveFreeByte s).sliceBase = s.sliceBase := rfl
@[simp] theorem giveFreeByte_sliceLen (s : State) : (giveFreeByte s).sliceLen = s.sliceLen := rfl
@[simp] theorem giveFreeByte_epos (s : State) : (giveFreeByte s).epos = s.epos := rfl
@[simp] theorem giveFreeByte_candLen (s : State) : (giveFreeByte s).candLen = s.candLen := rfl
@[simp] theorem giveFreeByte_etagAt (s : State) : (giveFreeByte s).etagAt = s.etagAt := rfl
@[simp] theorem giveFreeByte_eidx (s : State) : (giveFreeByte s).eidx = s.eidx := rfl
@[simp] theorem giveFreeByte_mfIndex (s : State) : (giveFreeByte s).mfIndex = s.mfIndex := rfl
@[simp] theorem giveFreeByte_inBuf (s : State) : (giveFreeByte s).inBuf = s.inBuf := rfl
@[simp] theorem giveFreeByte_outBuf (s : State) : (giveFreeByte s).outBuf = s.outBuf := rfl
@[simp] theorem giveFreeByte_cand (s : State) : (giveFreeByte s).cand = s.cand := rfl
@[simp] theorem giveFreeByte_inCap (s : State) : (giveFreeByte s).inCap = s.inCap := rfl
@[simp] theorem giveFreeByte_outCap (s : State) : (giveFreeByte s).outCap = s.outCap := rfl
@[simp] theorem giveFreeByte_inHostBase (s : State) : (giveFreeByte s).inHostBase = s.inHostBase := rfl
@[simp] theorem giveFreeByte_outHostBase (s : State) : (giveFreeByte s).outHostBase = s.outHostBase := rfl
@[simp] theorem giveFreeByte_regBase (s : State) : (giveFreeByte s).regBase = s.regBase := rfl
@[simp] theorem giveFreeByte_host (s : State) : (giveFreeByte s).host = s.host := rfl
@[simp] theorem giveFreeByte_hostData (s : State) : (giveFreeByte s).hostData = (Config.freeByte s.draws).setWidth 32 := rfl
@[simp] theorem giveFreeByte_draws (s : State) : (giveFreeByte s).draws = s.draws + 1 := rfl

/-! ### giveFreeWord: A host read of any word. -/

@[simp] theorem giveFreeWord_cfg (s : State) : (giveFreeWord s).cfg = s.cfg := rfl
@[simp] theorem giveFreeWord_status (s : State) : (giveFreeWord s).status = s.status := rfl
@[simp] theorem giveFreeWord_err (s : State) : (giveFreeWord s).err = s.err := rfl
@[simp] theorem giveFreeWord_inLen (s : State) : (giveFreeWord s).inLen = s.inLen := rfl
@[simp] theorem giveFreeWord_outLen (s : State) : (giveFreeWord s).outLen = s.outLen := rfl
@[simp] theorem giveFreeWord_faultIp (s : State) : (giveFreeWord s).faultIp = s.faultIp := rfl
@[simp] theorem giveFreeWord_faultPos (s : State) : (giveFreeWord s).faultPos = s.faultPos := rfl
@[simp] theorem giveFreeWord_dstate (s : State) : (giveFreeWord s).dstate = s.dstate := rfl
@[simp] theorem giveFreeWord_ip (s : State) : (giveFreeWord s).ip = s.ip := rfl
@[simp] theorem giveFreeWord_chunkEnd (s : State) : (giveFreeWord s).chunkEnd = s.chunkEnd := rfl
@[simp] theorem giveFreeWord_size (s : State) : (giveFreeWord s).size = s.size := rfl
@[simp] theorem giveFreeWord_cflag (s : State) : (giveFreeWord s).cflag = s.cflag := rfl
@[simp] theorem giveFreeWord_pos (s : State) : (giveFreeWord s).pos = s.pos := rfl
@[simp] theorem giveFreeWord_olen (s : State) : (giveFreeWord s).olen = s.olen := rfl
@[simp] theorem giveFreeWord_outBase (s : State) : (giveFreeWord s).outBase = s.outBase := rfl
@[simp] theorem giveFreeWord_tag (s : State) : (giveFreeWord s).tag = s.tag := rfl
@[simp] theorem giveFreeWord_idx (s : State) : (giveFreeWord s).idx = s.idx := rfl
@[simp] theorem giveFreeWord_strictL (s : State) : (giveFreeWord s).strictL = s.strictL := rfl
@[simp] theorem giveFreeWord_estate (s : State) : (giveFreeWord s).estate = s.estate := rfl
@[simp] theorem giveFreeWord_sliceBase (s : State) : (giveFreeWord s).sliceBase = s.sliceBase := rfl
@[simp] theorem giveFreeWord_sliceLen (s : State) : (giveFreeWord s).sliceLen = s.sliceLen := rfl
@[simp] theorem giveFreeWord_epos (s : State) : (giveFreeWord s).epos = s.epos := rfl
@[simp] theorem giveFreeWord_candLen (s : State) : (giveFreeWord s).candLen = s.candLen := rfl
@[simp] theorem giveFreeWord_etagAt (s : State) : (giveFreeWord s).etagAt = s.etagAt := rfl
@[simp] theorem giveFreeWord_eidx (s : State) : (giveFreeWord s).eidx = s.eidx := rfl
@[simp] theorem giveFreeWord_mfIndex (s : State) : (giveFreeWord s).mfIndex = s.mfIndex := rfl
@[simp] theorem giveFreeWord_inBuf (s : State) : (giveFreeWord s).inBuf = s.inBuf := rfl
@[simp] theorem giveFreeWord_outBuf (s : State) : (giveFreeWord s).outBuf = s.outBuf := rfl
@[simp] theorem giveFreeWord_cand (s : State) : (giveFreeWord s).cand = s.cand := rfl
@[simp] theorem giveFreeWord_inCap (s : State) : (giveFreeWord s).inCap = s.inCap := rfl
@[simp] theorem giveFreeWord_outCap (s : State) : (giveFreeWord s).outCap = s.outCap := rfl
@[simp] theorem giveFreeWord_inHostBase (s : State) : (giveFreeWord s).inHostBase = s.inHostBase := rfl
@[simp] theorem giveFreeWord_outHostBase (s : State) : (giveFreeWord s).outHostBase = s.outHostBase := rfl
@[simp] theorem giveFreeWord_regBase (s : State) : (giveFreeWord s).regBase = s.regBase := rfl
@[simp] theorem giveFreeWord_host (s : State) : (giveFreeWord s).host = s.host := rfl
@[simp] theorem giveFreeWord_hostData (s : State) : (giveFreeWord s).hostData = Config.freeWord s.draws := rfl
@[simp] theorem giveFreeWord_draws (s : State) : (giveFreeWord s).draws = s.draws + 1 := rfl

/-! ### resetBlock: Reset (R270). -/

@[simp] theorem resetBlock_cfg (s : State) : (resetBlock s).cfg = State.reset.cfg := rfl
@[simp] theorem resetBlock_status (s : State) : (resetBlock s).status = State.reset.status := rfl
@[simp] theorem resetBlock_err (s : State) : (resetBlock s).err = State.reset.err := rfl
@[simp] theorem resetBlock_inLen (s : State) : (resetBlock s).inLen = State.reset.inLen := rfl
@[simp] theorem resetBlock_outLen (s : State) : (resetBlock s).outLen = State.reset.outLen := rfl
@[simp] theorem resetBlock_faultIp (s : State) : (resetBlock s).faultIp = State.reset.faultIp := rfl
@[simp] theorem resetBlock_faultPos (s : State) : (resetBlock s).faultPos = State.reset.faultPos := rfl
@[simp] theorem resetBlock_dstate (s : State) : (resetBlock s).dstate = State.reset.dstate := rfl
@[simp] theorem resetBlock_ip (s : State) : (resetBlock s).ip = State.reset.ip := rfl
@[simp] theorem resetBlock_chunkEnd (s : State) : (resetBlock s).chunkEnd = State.reset.chunkEnd := rfl
@[simp] theorem resetBlock_size (s : State) : (resetBlock s).size = State.reset.size := rfl
@[simp] theorem resetBlock_cflag (s : State) : (resetBlock s).cflag = State.reset.cflag := rfl
@[simp] theorem resetBlock_pos (s : State) : (resetBlock s).pos = State.reset.pos := rfl
@[simp] theorem resetBlock_olen (s : State) : (resetBlock s).olen = State.reset.olen := rfl
@[simp] theorem resetBlock_outBase (s : State) : (resetBlock s).outBase = State.reset.outBase := rfl
@[simp] theorem resetBlock_tag (s : State) : (resetBlock s).tag = State.reset.tag := rfl
@[simp] theorem resetBlock_idx (s : State) : (resetBlock s).idx = State.reset.idx := rfl
@[simp] theorem resetBlock_strictL (s : State) : (resetBlock s).strictL = State.reset.strictL := rfl
@[simp] theorem resetBlock_estate (s : State) : (resetBlock s).estate = State.reset.estate := rfl
@[simp] theorem resetBlock_sliceBase (s : State) : (resetBlock s).sliceBase = State.reset.sliceBase := rfl
@[simp] theorem resetBlock_sliceLen (s : State) : (resetBlock s).sliceLen = State.reset.sliceLen := rfl
@[simp] theorem resetBlock_epos (s : State) : (resetBlock s).epos = State.reset.epos := rfl
@[simp] theorem resetBlock_candLen (s : State) : (resetBlock s).candLen = State.reset.candLen := rfl
@[simp] theorem resetBlock_etagAt (s : State) : (resetBlock s).etagAt = State.reset.etagAt := rfl
@[simp] theorem resetBlock_eidx (s : State) : (resetBlock s).eidx = State.reset.eidx := rfl
@[simp] theorem resetBlock_mfIndex (s : State) : (resetBlock s).mfIndex = State.reset.mfIndex := rfl
@[simp] theorem resetBlock_inBuf (s : State) : (resetBlock s).inBuf = State.reset.inBuf := rfl
@[simp] theorem resetBlock_outBuf (s : State) : (resetBlock s).outBuf = State.reset.outBuf := rfl
@[simp] theorem resetBlock_cand (s : State) : (resetBlock s).cand = State.reset.cand := rfl
@[simp] theorem resetBlock_inCap (s : State) : (resetBlock s).inCap = s.inCap := rfl
@[simp] theorem resetBlock_outCap (s : State) : (resetBlock s).outCap = s.outCap := rfl
@[simp] theorem resetBlock_inHostBase (s : State) : (resetBlock s).inHostBase = s.inHostBase := rfl
@[simp] theorem resetBlock_outHostBase (s : State) : (resetBlock s).outHostBase = s.outHostBase := rfl
@[simp] theorem resetBlock_regBase (s : State) : (resetBlock s).regBase = s.regBase := rfl
@[simp] theorem resetBlock_host (s : State) : (resetBlock s).host = s.host := rfl
@[simp] theorem resetBlock_hostData (s : State) : (resetBlock s).hostData = s.hostData := rfl
@[simp] theorem resetBlock_draws (s : State) : (resetBlock s).draws = s.draws := rfl

/-! ### STATUS -/

/-- The low field of two fields side by side. -/
theorem extractLsb'_append_low {n m : Nat} (a : BitVec n) (b : BitVec m) :
    (a ++ b).extractLsb' 0 m = b := by
  apply BitVec.eq_of_getLsbD_eq
  intro i hi
  simp [BitVec.getLsbD_append, hi]

/-- A field of the high part of two fields side by side. -/
theorem extractLsb'_append_high {n m : Nat} (a : BitVec n) (b : BitVec m) (k : Nat) :
    (a ++ b).extractLsb' m k = a.extractLsb' 0 k := by
  apply BitVec.eq_of_getLsbD_eq
  intro i hi
  simp [BitVec.getLsbD_append, hi]

theorem statusSetState_state (w : Word) (e : EngineState) :
    (statusSetState w e).extractLsb' 0 2 = e.code :=
  extractLsb'_append_low (w.extractLsb' 2 30) e.code

theorem statusSetState_lastOp (w : Word) (e : EngineState) :
    (statusSetState w e).extractLsb' 2 2 = w.extractLsb' 2 2 := by
  refine (extractLsb'_append_high (w.extractLsb' 2 30) e.code 2).trans ?_
  apply BitVec.eq_of_getLsbD_eq
  intro i hi
  have h : i < 30 := by omega
  simp [hi, h]

theorem statusStart_state (w : Word) (op : BitVec 2) (e : EngineState) :
    (statusStart w op e).extractLsb' 0 2 = e.code :=
  extractLsb'_append_low (w.extractLsb' 4 28 ++ op) e.code

theorem statusStart_lastOp (w : Word) (op : BitVec 2) (e : EngineState) :
    (statusStart w op e).extractLsb' 2 2 = op :=
  (extractLsb'_append_high (w.extractLsb' 4 28 ++ op) e.code 2).trans
    (extractLsb'_append_low (w.extractLsb' 4 28) op)

/-- STATE read back after STATE was written (R24). -/
@[simp] theorem engine_of_statusSetState (s : State) (w : Word) (e : EngineState)
    (h : s.status = statusSetState w e) : s.engine = e := by
  simp only [State.engine, h, statusSetState_state]
  cases e <;> rfl

/-- STATE read back after a command's start (R24). -/
@[simp] theorem engine_of_statusStart (s : State) (w : Word) (op : BitVec 2) (e : EngineState)
    (h : s.status = statusStart w op e) : s.engine = e := by
  simp only [State.engine, h, statusStart_state]
  cases e <;> rfl

@[simp] theorem takeError_engine (c : Cause) (s : State) : (takeError c s).engine = .error :=
  engine_of_statusSetState _ s.status .error rfl

@[simp] theorem finishDecompress_engine (s : State) : (finishDecompress s).engine = .done :=
  engine_of_statusSetState _ s.status .done rfl

@[simp] theorem finishCompress_engine (s : State) : (finishCompress s).engine = .done :=
  engine_of_statusSetState _ s.status .done rfl

@[simp] theorem startDecompress_engine (s : State) : (startDecompress s).engine = .busy :=
  engine_of_statusStart _ s.status 2#2 .busy rfl

@[simp] theorem startCompress_engine (s : State) : (startCompress s).engine = .busy :=
  engine_of_statusStart _ s.status 1#2 .busy rfl

@[simp] theorem startDecompress_lastOp (s : State) : (startDecompress s).lastOp = 2#2 :=
  statusStart_lastOp s.status 2#2 .busy

@[simp] theorem startCompress_lastOp (s : State) : (startCompress s).lastOp = 1#2 :=
  statusStart_lastOp s.status 1#2 .busy

@[simp] theorem takeError_lastOp (c : Cause) (s : State) : (takeError c s).lastOp = s.lastOp :=
  statusSetState_lastOp s.status .error

@[simp] theorem putOut_engine (b : Byte) (s : State) : (putOut b s).engine = s.engine := rfl

@[simp] theorem chunkSetup_engine (c : Bool) (m : BitVec 12) (s : State) :
    (chunkSetup c m s).engine = s.engine := rfl

@[simp] theorem advance_engine (n : Nat) (s : State) : (advance n s).engine = s.engine := rfl

end Sys2Proof.Machine
end

