-- ==== Sys2Proof/Laws/Ops.lean ====
section
/-! SUPPORT. What each shared operation can answer, once: sequencing, the guards, appending, copying and packing. -/

namespace Sys2Proof.Machine

/-! ### Sequencing and guards -/

@[simp] theorem andThen_next (s : State) (f : State → Answer) : andThen (.next s) f = f s := rfl
@[simp] theorem andThen_fault (r : Fault) (f : State → Answer) : andThen (.fault r) f = .fault r := rfl
@[simp] theorem andThen_refused (r : Refusal) (f : State → Answer) : andThen (.refused r) f = .refused r := rfl

/-- A sequence that answers a next state went through a next state. -/
theorem andThen_eq_next {o : Answer} {f : State → Answer} {t : State} (h : andThen o f = .next t) :
    ∃ u, o = .next u ∧ f u = .next t := by
  cases o with
  | next u => exact ⟨u, rfl, h⟩
  | fault r => cases h
  | refused r => cases h

/-- A sequence that faults faulted in one of its parts. -/
theorem andThen_eq_fault {o : Answer} {f : State → Answer} {r : Fault} (h : andThen o f = .fault r) :
    o = .fault r ∨ ∃ u, o = .next u ∧ f u = .fault r := by
  cases o with
  | next u => exact .inr ⟨u, rfl, h⟩
  | fault q => exact .inl h
  | refused q => cases h

@[simp] theorem inPlace_true (a : Answer) : inPlace true a = a := rfl
@[simp] theorem inPlace_false (a : Answer) : inPlace false a = .refused .outOfPlace := rfl

/-- A meaning that answers a next state stood in its place. -/
theorem inPlace_eq_next {here : Bool} {a : Answer} {t : State} (h : inPlace here a = .next t) :
    here = true ∧ a = .next t := by
  cases here with
  | true => exact ⟨rfl, h⟩
  | false => cases h

@[simp] theorem checkedBy_none (s : State) (a : Answer) : checkedBy none s a = a := rfl
@[simp] theorem checkedBy_some (c : Cause) (s : State) (a : Answer) :
    checkedBy (some c) s a = .next (takeError c s) := rfl

/-- A checked meaning raised its error or went on. -/
theorem checkedBy_eq_next {c : Option Cause} {s t : State} {a : Answer} (h : checkedBy c s a = .next t) :
    (∃ e, c = some e ∧ t = takeError e s) ∨ (c = none ∧ a = .next t) := by
  cases c with
  | none => exact .inr ⟨rfl, h⟩
  | some e => exact .inl ⟨e, rfl, by simpa using h.symm⟩

/-- A host write that went on found the engine not BUSY (R278). -/
theorem whenNotBusy_eq_next {s t : State} {a : Answer} (h : whenNotBusy s a = .next t) :
    s.engine ≠ .busy ∧ a = .next t := by
  unfold whenNotBusy at h
  split at h
  · cases h
  · exact ⟨‹_›, h⟩

/-- A command that started found the buffers apart (R280). -/
theorem whenBuffersApart_eq_next {s t : State} {a : Answer} (h : whenBuffersApart s a = .next t) :
    s.buffersShare = false ∧ a = .next t := by
  unfold whenBuffersApart at h
  split at h
  · cases h
  · rename_i hb
    exact ⟨by simpa using hb, h⟩

/-- A command that started found its input loaded (R275). -/
theorem whenInputLoaded_eq_next {s t : State} {a : Answer} (h : whenInputLoaded s a = .next t) :
    s.inputLoaded = true ∧ a = .next t := by
  unfold whenInputLoaded at h
  split at h
  · exact ⟨‹_›, h⟩
  · cases h

/-- Everything a command's start was guarded by (R22, R275, R278, R280). -/
theorem whenCommandMayStart_eq_next {s t : State} {a : Answer} (h : whenCommandMayStart s a = .next t) :
    s.engine ≠ .busy ∧ s.buffersShare = false ∧ s.inputLoaded = true ∧ a = .next t := by
  obtain ⟨h1, h2⟩ := whenNotBusy_eq_next h
  obtain ⟨h3, h4⟩ := whenBuffersApart_eq_next h2
  exact ⟨h1, h3, whenInputLoaded_eq_next h4⟩

/-- Where no guard holds a command back, it starts. -/
theorem whenCommandMayStart_of {s : State} {a : Answer} (h1 : s.engine ≠ .busy) (h2 : s.buffersShare = false)
    (h3 : s.inputLoaded = true) : whenCommandMayStart s a = a := by
  simp [whenCommandMayStart, whenNotBusy, h1, whenBuffersApart, h2, whenInputLoaded, h3]

/-- An input of no bytes is loaded. -/
theorem inputLoaded_of_empty {s : State} (h : s.inLen = 0) : s.inputLoaded = true := by
  simp [State.inputLoaded, h, Memory.readRun_zero]

/-- An input of no bytes shares no storage with OUT (R76). -/
theorem buffersShare_of_empty {s : State} (h : s.inLen = 0) : s.buffersShare = false := by
  simp [State.buffersShare, h]

/-! ### Appending -/

/-- An append answers the byte put, below OUT_CAP, and else the refusal (R62, R78). -/
theorem append_cases (b : Byte) (s : State) :
    (s.olen.toNat < s.outCap.toNat ∧ append b s = .next (putOut b s)) ∨
      (s.outCap.toNat ≤ s.olen.toNat ∧ append b s = .refused .outputFull) := by
  unfold append
  split
  · exact .inr ⟨‹_›, rfl⟩
  · exact .inl ⟨by omega, rfl⟩

theorem append_eq_next {b : Byte} {s t : State} (h : append b s = .next t) :
    s.olen.toNat < s.outCap.toNat ∧ t = putOut b s := by
  obtain ⟨h1, h2⟩ | ⟨_, h2⟩ := append_cases b s
  · rw [h2] at h
    exact ⟨h1, by simpa using h.symm⟩
  · rw [h2] at h
    cases h

/-- OLEN counts the byte put, without wrap-around, below OUT_CAP (R36). -/
theorem putOut_olen_toNat (b : Byte) (s : State) (h : s.olen.toNat < s.outCap.toNat) :
    (putOut b s).olen.toNat = s.olen.toNat + 1 := by
  have := s.outCap.isLt
  have h1 : (1 : Word).toNat = 1 := rfl
  rw [putOut_olen, BitVec.toNat_add, h1]
  omega

theorem word_add_succ (w : Word) (n : Nat) :
    w + 1 + BitVec.ofNat 32 n = w + BitVec.ofNat 32 (n + 1) := by
  apply BitVec.eq_of_toNat_eq
  simp [BitVec.toNat_add]
  omega

/-- What appending bytes does where it answers a next state: OLEN grows by their number, they stand from the old OLEN
on in order, every other byte of OUT and every other field is unchanged (R62, R69). -/
theorem appendAll_eq_next {bs : List Byte} {s t : State} (h : appendAll bs s = .next t) :
    t = { s with outBuf := t.outBuf, olen := s.olen + BitVec.ofNat 32 bs.length } ∧
      t.olen.toNat = s.olen.toNat + bs.length ∧
      ∀ a, t.outBuf.read a =
        if s.olen.toNat ≤ a ∧ a < s.olen.toNat + bs.length then bs[a - s.olen.toNat]? else s.outBuf.read a := by
  induction bs generalizing s with
  | nil =>
    simp only [appendAll, Host.Outcome.next.injEq] at h
    subst h
    exact ⟨by simp, by simp, fun a => by simp⟩
  | cons b bs ih =>
    obtain ⟨u, h1, h2⟩ := andThen_eq_next h
    obtain ⟨hlt, rfl⟩ := append_eq_next h1
    obtain ⟨e1, e2, e3⟩ := ih h2
    rw [putOut_olen_toNat b s hlt] at e2 e3
    refine ⟨?_, by simp only [List.length_cons]; omega, fun a => ?_⟩
    · rw [e1]
      simp only [putOut, word_add_succ, List.length_cons]
    · rw [e3 a, putOut_outBuf, Memory.read_write]
      rcases Nat.lt_trichotomy a s.olen.toNat with h0 | h0 | h0
      · have a1 : ¬(s.olen.toNat + 1 ≤ a ∧ a < s.olen.toNat + 1 + bs.length) := by omega
        have a2 : ¬(s.olen.toNat ≤ a ∧ a < s.olen.toNat + (b :: bs).length) := by omega
        have a3 : a ≠ s.olen.toNat := by omega
        rw [if_neg a1, if_neg a2, if_neg a3]
      · subst h0
        have a1 : ¬(s.olen.toNat + 1 ≤ s.olen.toNat ∧ s.olen.toNat < s.olen.toNat + 1 + bs.length) := by omega
        rw [if_neg a1, if_pos rfl, if_pos (by simp)]
        simp
      · have a3 : a ≠ s.olen.toNat := by omega
        by_cases a1 : s.olen.toNat + 1 ≤ a ∧ a < s.olen.toNat + 1 + bs.length
        · have a2 : s.olen.toNat ≤ a ∧ a < s.olen.toNat + (b :: bs).length := by
            simp only [List.length_cons]; omega
          rw [if_pos a1, if_pos a2]
          have : a - s.olen.toNat = (a - (s.olen.toNat + 1)) + 1 := by omega
          rw [this, List.getElem?_cons_succ]
        · have a2 : ¬(s.olen.toNat ≤ a ∧ a < s.olen.toNat + (b :: bs).length) := by
            simp only [List.length_cons]; omega
          rw [if_neg a1, if_neg a2, if_neg a3]

/-- Appending succeeds where the bytes fit below OUT_CAP (R78). -/
theorem appendAll_succeeds {bs : List Byte} {s : State} (h : s.olen.toNat + bs.length ≤ s.outCap.toNat) :
    ∃ t, appendAll bs s = .next t := by
  induction bs generalizing s with
  | nil => exact ⟨s, rfl⟩
  | cons b bs ih =>
    simp only [List.length_cons] at h
    have hlt : s.olen.toNat < s.outCap.toNat := by omega
    have h1 : append b s = .next (putOut b s) := by
      unfold append
      rw [if_neg (by omega)]
    obtain ⟨t, ht⟩ := ih (s := putOut b s) (by rw [putOut_olen_toNat b s hlt, putOut_outCap]; omega)
    exact ⟨t, by simp [appendAll, h1, ht]⟩

/-- Appending never faults. -/
theorem appendAll_ne_fault (bs : List Byte) (s : State) (r : Fault) : appendAll bs s ≠ .fault r := by
  induction bs generalizing s with
  | nil => simp [appendAll]
  | cons b bs ih =>
    intro h
    obtain h1 | ⟨u, _, h2⟩ := andThen_eq_fault h
    · obtain ⟨_, h3⟩ | ⟨_, h3⟩ := append_cases b s <;> rw [h3] at h1 <;> cases h1
    · exact ih u h2

/-! ### Copying -/

/-- One turn of the copy loop (R144). -/
theorem copyBytes_succ_eq_next {d k : Nat} {s t : State} (h : copyBytes d (k + 1) s = .next t) :
    d ≤ s.olen.toNat ∧ ∃ b, s.outBuf.read (s.olen.toNat - d) = some b ∧
      s.olen.toNat < s.outCap.toNat ∧ copyBytes d k (putOut b s) = .next t := by
  unfold copyBytes at h
  split at h
  · cases h
  · split at h
    · cases h
    · rename_i b hb
      obtain ⟨u, h1, h2⟩ := andThen_eq_next h
      obtain ⟨hlt, rfl⟩ := append_eq_next h1
      exact ⟨by omega, b, hb, hlt, h2⟩

/-- The frame of the copy: OLEN grows by its length, every byte of OUT outside the appended ones and every other
field is unchanged (R62, R144). -/
theorem copyBytes_eq_next {d l : Nat} {s t : State} (h : copyBytes d l s = .next t) :
    t = { s with outBuf := t.outBuf, olen := s.olen + BitVec.ofNat 32 l } ∧
      t.olen.toNat = s.olen.toNat + l ∧
      ∀ a, (a < s.olen.toNat ∨ s.olen.toNat + l ≤ a) → t.outBuf.read a = s.outBuf.read a := by
  induction l generalizing s with
  | zero =>
    simp only [copyBytes, Host.Outcome.next.injEq] at h
    subst h
    exact ⟨by simp, rfl, fun _ _ => rfl⟩
  | succ k ih =>
    obtain ⟨_, b, _, hlt, h2⟩ := copyBytes_succ_eq_next h
    obtain ⟨e1, e2, e3⟩ := ih h2
    rw [putOut_olen_toNat b s hlt] at e2 e3
    refine ⟨?_, by omega, fun a ha => ?_⟩
    · rw [e1]
      simp only [putOut, word_add_succ]
    · rw [e3 a (by omega), putOut_outBuf, Memory.read_write, if_neg (by omega)]

/-! ### The canonical form -/

/-- The state after reset meets the canonical form and the bounds (R271). -/
theorem reset_buffersWf : State.reset.buffersWf = true := rfl

theorem putOut_outWf {s : State} (b : Byte) (hlt : s.olen.toNat < s.outCap.toNat)
    (h : s.outBuf.wf = true ∧ s.outBuf.below s.outCap.toNat = true) :
    (putOut b s).outBuf.wf = true ∧ (putOut b s).outBuf.below (putOut b s).outCap.toNat = true :=
  ⟨s.outBuf.wf_write _ b h.1, s.outBuf.below_write b hlt h.2⟩

/-- Appending keeps OUT's canonical form and bound. -/
theorem appendAll_outWf {bs : List Byte} {s t : State} (h : appendAll bs s = .next t)
    (hw : s.outBuf.wf = true ∧ s.outBuf.below s.outCap.toNat = true) :
    t.outBuf.wf = true ∧ t.outBuf.below t.outCap.toNat = true := by
  induction bs generalizing s with
  | nil =>
    simp only [appendAll, Host.Outcome.next.injEq] at h
    subst h
    exact hw
  | cons b bs ih =>
    obtain ⟨u, h1, h2⟩ := andThen_eq_next h
    obtain ⟨hlt, rfl⟩ := append_eq_next h1
    exact ih h2 (putOut_outWf b hlt hw)

/-- The copy keeps OUT's canonical form and bound. -/
theorem copyBytes_outWf {d l : Nat} {s t : State} (h : copyBytes d l s = .next t)
    (hw : s.outBuf.wf = true ∧ s.outBuf.below s.outCap.toNat = true) :
    t.outBuf.wf = true ∧ t.outBuf.below t.outCap.toNat = true := by
  induction l generalizing s with
  | zero =>
    simp only [copyBytes, Host.Outcome.next.injEq] at h
    subst h
    exact hw
  | succ k ih =>
    obtain ⟨_, b, _, hlt, h2⟩ := copyBytes_succ_eq_next h
    exact ih h2 (putOut_outWf b hlt hw)

/-! ### Packing -/

/-- What a push does where it answers a next state (R150). -/
theorem pushCand_eq_next {b : Byte} {s t : State} (h : pushCand b s = .next t) :
    s.candLen.toNat < 4608 ∧
      t = { s with cand := s.cand.write s.candLen.toNat b, candLen := s.candLen + 1 } := by
  unfold pushCand at h
  split at h
  · cases h
  · exact ⟨by omega, by simpa using h.symm⟩

/-- What setting a tag bit does where it answers a next state (R147, R150). -/
theorem setTagBit_eq_next {s t : State} (h : setTagBit s = .next t) :
    ∃ v, s.cand.read s.etagAt.toNat = some v ∧
      t = { s with cand := s.cand.write s.etagAt.toNat (v ||| (1#8 <<< s.eidx.toNat)) } := by
  unfold setTagBit at h
  split at h
  · cases h
  · rename_i v hv
    exact ⟨v, hv, by simpa using h.symm⟩

/-- A push keeps CAND's canonical form and bound. -/
theorem pushCand_candWf {b : Byte} {s t : State} (h : pushCand b s = .next t)
    (hw : s.cand.wf = true ∧ s.cand.below 4608 = true) :
    t.cand.wf = true ∧ t.cand.below 4608 = true := by
  obtain ⟨hlt, rfl⟩ := pushCand_eq_next h
  exact ⟨s.cand.wf_write _ b hw.1, s.cand.below_write b hlt hw.2⟩

/-- Setting a tag bit keeps CAND's canonical form and bound. -/
theorem setTagBit_candWf {s t : State} (h : setTagBit s = .next t)
    (hw : s.cand.wf = true ∧ s.cand.below 4608 = true) :
    t.cand.wf = true ∧ t.cand.below 4608 = true := by
  obtain ⟨v, hv, rfl⟩ := setTagBit_eq_next h
  exact ⟨s.cand.wf_write _ _ hw.1, s.cand.below_write _ (Memory.below_of_read hw.2 hv) hw.2⟩

/-- Loading a byte of IN keeps its canonical form and bound (R60). -/
theorem loadInput_inWf {a : Word} {b : Byte} {s t : State} (h : loadInput a b s = .next t)
    (hw : s.inBuf.wf = true ∧ s.inBuf.below s.inCap.toNat = true) :
    t.inBuf.wf = true ∧ t.inBuf.below t.inCap.toNat = true := by
  unfold loadInput at h
  split at h
  · cases h
  · obtain ⟨_, h2⟩ := whenNotBusy_eq_next h
    obtain rfl : { s with inBuf := s.inBuf.write a.toNat b } = t := by simpa using h2
    exact ⟨s.inBuf.wf_write _ b hw.1, s.inBuf.below_write b (by simp only []; omega) hw.2⟩

end Sys2Proof.Machine
end

