-- ==== Sys2Proof/Laws/PerInstr.lean ====
section
/-! SUPPORT. A law of every instruction as syntax: how many bytes its encoding has (R90, R105). -/

namespace Sys2Proof.Laws.EncodedLength

/-- The bytes of an instruction in the stream (R90: a header and a back-reference are two bytes, a raw payload is
`SIZE` bytes, a tag byte and a literal are one), and of a command's word (R105). -/
def bytes : Instr → Nat
  | .endMark => 2
  | .hdrR _ => 2
  | .hdrC _ => 2
  | .hdrRNs _ _ => 2
  | .hdrCNs _ _ => 2
  | .raw payload => payload.length
  | .tag _ => 1
  | .lit _ => 1
  | .refO4 _ _ => 2
  | .refO5 _ _ => 2
  | .refO6 _ _ => 2
  | .refO7 _ _ => 2
  | .refO8 _ _ => 2
  | .refO9 _ _ => 2
  | .refO10 _ _ => 2
  | .refO11 _ _ => 2
  | .refO12 _ _ => 2
  | .cmdNop _ => 4
  | .cmdCompress _ => 4
  | .cmdDecompress _ => 4
  | .cmdRsvd _ => 4

/-- A well-formed instruction's encoding has its length, at least 1 and at most 4096 bytes. -/
def Statement (i : Instr) : Prop :=
  i.wellFormed = true → (encode i).length = bytes i ∧ 1 ≤ bytes i ∧ bytes i ≤ 4096

theorem endMark : Statement .endMark := fun _ => by simp [encode, halfBytes, bytes]

theorem hdrR (a : BitVec 12) : Statement (.hdrR a) := fun _ => by simp [encode, halfBytes, bytes]

theorem hdrC (a : BitVec 12) : Statement (.hdrC a) := fun _ => by simp [encode, halfBytes, bytes]

theorem hdrRNs (a : BitVec 3) (b : BitVec 12) : Statement (.hdrRNs a b) := fun _ => by simp [encode, halfBytes, bytes]

theorem hdrCNs (a : BitVec 3) (b : BitVec 12) : Statement (.hdrCNs a b) := fun _ => by simp [encode, halfBytes, bytes]

theorem raw (a : List Byte) : Statement (.raw a) := by
  intro h
  simp only [Instr.wellFormed, Bool.and_eq_true, decide_eq_true_eq] at h
  exact ⟨rfl, h⟩

theorem tag (a : Byte) : Statement (.tag a) := fun _ => by simp [encode, bytes]

theorem lit (a : Byte) : Statement (.lit a) := fun _ => by simp [encode, bytes]

theorem refO4 (a : BitVec 4) (b : BitVec 12) : Statement (.refO4 a b) := fun _ => by simp [encode, halfBytes, bytes]

theorem refO5 (a : BitVec 5) (b : BitVec 11) : Statement (.refO5 a b) := fun _ => by simp [encode, halfBytes, bytes]

theorem refO6 (a : BitVec 6) (b : BitVec 10) : Statement (.refO6 a b) := fun _ => by simp [encode, halfBytes, bytes]

theorem refO7 (a : BitVec 7) (b : BitVec 9) : Statement (.refO7 a b) := fun _ => by simp [encode, halfBytes, bytes]

theorem refO8 (a : BitVec 8) (b : BitVec 8) : Statement (.refO8 a b) := fun _ => by simp [encode, halfBytes, bytes]

theorem refO9 (a : BitVec 9) (b : BitVec 7) : Statement (.refO9 a b) := fun _ => by simp [encode, halfBytes, bytes]

theorem refO10 (a : BitVec 10) (b : BitVec 6) : Statement (.refO10 a b) := fun _ => by simp [encode, halfBytes, bytes]

theorem refO11 (a : BitVec 11) (b : BitVec 5) : Statement (.refO11 a b) := fun _ => by simp [encode, halfBytes, bytes]

theorem refO12 (a : BitVec 12) (b : BitVec 4) : Statement (.refO12 a b) := fun _ => by simp [encode, halfBytes, bytes]

theorem cmdNop (a : BitVec 30) : Statement (.cmdNop a) := fun _ => by simp [encode, wordBytes, bytes]

theorem cmdCompress (a : BitVec 30) : Statement (.cmdCompress a) := fun _ => by simp [encode, wordBytes, bytes]

theorem cmdDecompress (a : BitVec 30) : Statement (.cmdDecompress a) := fun _ => by simp [encode, wordBytes, bytes]

theorem cmdRsvd (a : BitVec 30) : Statement (.cmdRsvd a) := fun _ => by simp [encode, wordBytes, bytes]

end Sys2Proof.Laws.EncodedLength
end

