-- ==== Sys2Proof/Machine/Assembler.lean ====
section
/-! DEFINITION. The assembler's notation for token streams (R106, R107), as abstract syntax: what each line stands for
in bytes. No step uses it. -/

namespace Sys2Proof.Machine

/-- An item line: `lit b` or `ref d, L` (R106). -/
inductive AsmItem where
  | lit (b : Byte)
  | ref (d l : Nat)
  deriving DecidableEq, Repr

/-- A line of assembler text: a token (R106) or a pseudo-instruction (R107). -/
inductive AsmLine where
  /-- `hdr.r N`. -/
  | hdrR (n : Nat)
  /-- `hdr.c N`. -/
  | hdrC (n : Nat)
  /-- `hdr W`: any header word. -/
  | hdr (w : Half)
  /-- `end`. -/
  | endMark
  /-- `raw b0, b1, ...`. -/
  | raw (bytes : List Byte)
  /-- `tag T`. -/
  | tag (t : Byte)
  /-- `lit b` or `ref d, L`. -/
  | item (i : AsmItem)
  /-- `lits "text"`: one `lit` for each byte. -/
  | lits (bytes : List Byte)
  /-- `group` with its items: the tag byte, then the items. -/
  | group (items : List AsmItem)
  /-- `chunk.c` with its items: `hdr.c N`, then the items in groups of 8. -/
  | chunkC (items : List AsmItem)
  /-- `chunk.r "text"`: `hdr.r N`, then `raw`. -/
  | chunkR (bytes : List Byte)
  deriving DecidableEq, Repr

/-- Why the assembler refuses a line (R106, R107). -/
inductive AsmReject where
  /-- A size outside 1 to 4096. -/
  | badSize
  /-- A displacement or length outside R100's row for the position. -/
  | badReference
  /-- A group that has not 1 to 8 items. -/
  | badGroup
  deriving DecidableEq, Repr

/-- What the assembler answers: the bytes, and the position it has counted in the current chunk. -/
inductive Assembled where
  | bytes (l : List Byte) (pos : Nat)
  | refused (r : AsmReject)
  deriving DecidableEq, Repr

/-- Go on from the counted position, the bytes before coming first. -/
def Assembled.followedBy (a : Assembled) (f : Nat → Assembled) : Assembled :=
  match a with
  | .refused r => .refused r
  | .bytes l pos =>
    match f pos with
    | .refused r => .refused r
    | .bytes m pos' => .bytes (l ++ m) pos'

/-- One item at the counted position: `ref` is refused outside R100's row (R106). DESIGN CHOICE (entry 28), safe: R100
has no row beyond position 4096 and R106 does not say what the assembler does there; the width stays 12 and the bounds
are REF.O12's. -/
def assembleItem (pos : Nat) : AsmItem → Assembled
  | .lit b => .bytes [b] (pos + 1)
  | .ref d l =>
    if 1 ≤ d ∧ d ≤ 2 ^ bfc pos ∧ 3 ≤ l ∧ l ≤ 2 ^ lengthBits pos + 2 then
      .bytes (halfBytes (refWord pos d l)) (pos + l)
    else .refused .badReference

/-- Items in order. -/
def assembleItems (pos : Nat) : List AsmItem → Assembled
  | [] => .bytes [] pos
  | i :: is => (assembleItem pos i).followedBy fun p => assembleItems p is

/-- The tag byte of a group: bit `j` set where item `j` is a `ref`, from bit `j` on (R107, R66). -/
def groupTag (j : Nat) : List AsmItem → Byte
  | [] => 0
  | .lit _ :: is => groupTag (j + 1) is
  | .ref _ _ :: is => (1#8 <<< j) ||| groupTag (j + 1) is

/-- `group`: 1 to 8 items behind their tag byte (R107). -/
def assembleGroup (pos : Nat) (items : List AsmItem) : Assembled :=
  if 1 ≤ items.length ∧ items.length ≤ 8 then
    (Assembled.bytes [groupTag 0 items] pos).followedBy fun p => assembleItems p items
  else .refused .badGroup

/-- The items cut into groups of 8 in order, at most `fuel` of them (R107). -/
def assembleGroups : Nat → Nat → List AsmItem → Assembled
  | _, pos, [] => .bytes [] pos
  | 0, _, _ :: _ => .refused .badGroup
  | fuel + 1, pos, i :: is =>
    (assembleGroup pos ((i :: is).take 8)).followedBy fun p => assembleGroups fuel p ((i :: is).drop 8)

/-- A conformant header of size `n` (R106), which starts the count of positions anew. -/
def assembleHeader (c : BitVec 1) (n : Nat) : Assembled :=
  if 1 ≤ n ∧ n ≤ 4096 then .bytes (halfBytes (hdrWord c 3#3 (BitVec.ofNat 12 (n - 1)))) 0
  else .refused .badSize

/-- `chunk.c`: the header of the groups' length, then the groups (R107). -/
def assembleChunk (items : List AsmItem) : Assembled :=
  match assembleGroups items.length 0 items with
  | .refused r => .refused r
  | .bytes l pos => (assembleHeader 1#1 l.length).followedBy fun _ => .bytes l pos

/-- One line at the counted position (R106, R107). -/
def assembleLine (pos : Nat) : AsmLine → Assembled
  | .hdrR n => assembleHeader 0#1 n
  | .hdrC n => assembleHeader 1#1 n
  | .hdr w => .bytes (halfBytes w) 0
  | .endMark => .bytes (halfBytes 0#16) pos
  | .raw l => .bytes l pos
  | .tag t => .bytes [t] pos
  | .item i => assembleItem pos i
  | .lits l => .bytes l (pos + l.length)
  | .group items => assembleGroup pos items
  | .chunkC items => assembleChunk items
  | .chunkR l => (assembleHeader 0#1 l.length).followedBy fun p => .bytes l p

/-- A text, line by line, from the counted position. -/
def assemble (pos : Nat) : List AsmLine → Assembled
  | [] => .bytes [] pos
  | line :: lines => (assembleLine pos line).followedBy fun p => assemble p lines

end Sys2Proof.Machine
end

