-- ==== Sys2Proof/Machine/Functions.lean ====
section
/-! DEFINITION. The functions `decompress` and `compress` that the block's commands compute (R182, R209): a run of the
command from the given input. -/

namespace Sys2Proof.Machine

/-- `Ok(bytes)` or `Err(ERR.CODE, ERR.DETAIL, FAULT_IP, FAULT_POS)` (R182). -/
inductive DecompressResult where
  | ok (bytes : List Byte)
  | err (code : BitVec 2) (detail : BitVec 4) (faultIp faultPos : Word)
  deriving DecidableEq, Repr

/-- The cells of the bytes of `x` from address `a` on. -/
def cellsFrom : Nat → List Byte → Memory
  | _, [] => []
  | a, b :: x => (a, b) :: cellsFrom (a + 1) x

/-- The block after reset with `IN = x`, `IN_LEN = |x|` and `CFG.STRICT = strict`, the buffers apart and OUT as large as
an address allows (entry 29). -/
def inputState (strict : Bool) (x : List Byte) : State :=
  { State.reset with
    cfg := if strict then 1#32 else 0#32
    inLen := BitVec.ofNat 32 x.length
    inBuf := cellsFrom 0 x
    inCap := BitVec.ofNat 32 x.length
    outCap := 0xFFFFFFFF#32
    inHostBase := 0
    outHostBase := 0x100000000 }

/-- Run a command from a state for at most `n` engine steps and read what it left. -/
def runCommand {α : Type} (i : Instr) (n : Nat) (s : State) (f : State → Option α) : Option α :=
  match exec i s with
  | .next t =>
    match core.run n t with
    | .next u => f u
    | .fault _ => none
    | .refused _ => none
  | .fault _ => none
  | .refused _ => none

/-- What a DECOMPRESS left (R182). -/
def decompressResult (u : State) : Option DecompressResult :=
  match u.engine with
  | .done => (u.outBuf.readRun 0 u.outLen.toNat).map .ok
  | .error => some (.err (u.err.extractLsb' 0 2) (u.err.extractLsb' 4 4) u.faultIp u.faultPos)
  | .idle => none
  | .busy => none

/-- What a COMPRESS left (R209). -/
def compressResult (u : State) : Option (List Byte) :=
  if u.engine = .done then u.outBuf.readRun 0 u.outLen.toNat else none

/-- `decompress_s(x)` (R182), run for R181's bound; none where the run is refused. -/
def decompress (strict : Bool) (x : List Byte) : Option DecompressResult :=
  runCommand (.cmdDecompress 0) (3 * x.length + 2) (inputState strict x) decompressResult

/-- `compress(x)` (R209), run for one step for each item, three for each slice and the completion; none where the run
is refused. -/
def compress (x : List Byte) : Option (List Byte) :=
  runCommand (.cmdCompress 0) (4 * x.length + 1) (inputState false x) compressResult

end Sys2Proof.Machine
end

