-- ==== Sys2Proof/Tests/Slice0.lean ====
section
/-! SUPPORT. The model's own tests: ill-formed terms, words written out from the spec's encodings, single steps from
the vectors of 95_test_vectors.md, and a witness of each statement's hypotheses. -/

namespace Sys2Proof.Tests

open Sys2Proof.Machine

/-! ### Helpers -/

/-- The bytes of `l` from address `a` on. -/
def cells : Nat → List Byte → Memory
  | _, [] => []
  | a, b :: l => (a, b) :: cells (a + 1) l

/-- The block after reset with the given input loaded, and with capacities and places of its own. -/
def block (input : List Byte) : State :=
  { State.reset with
    inCap := 4200
    outCap := 8000
    inHostBase := 0
    outHostBase := 100000
    regBase := 200000
    inLen := BitVec.ofNat 32 input.length
    inBuf := cells 0 input }

/-- DECOMPRESS running in state `d` at `ip`, its chunk ending at `chunkEnd`. -/
def decoder (d : DState) (ip chunkEnd : BitVec 33) (input : List Byte) : State :=
  { startDecompress (block input) with dstate := d, ip := ip, chunkEnd := chunkEnd }

/-- DECOMPRESS at item `idx` of a group with tag `tag`, at position `pos`, the byte before it being 0x61. -/
def itemAt (pos : Nat) (tag : Byte) (idx : BitVec 4) (ip chunkEnd : BitVec 33) (input : List Byte) : State :=
  { decoder .item ip chunkEnd input with
    tag := tag
    idx := idx
    pos := BitVec.ofNat 13 pos
    olen := BitVec.ofNat 32 pos
    outBuf := cells (pos - 1) [0x61#8] }

/-- COMPRESS running in state `e`. -/
def encoder (e : EState) (input : List Byte) : State :=
  { startCompress (block input) with estate := e }

/-- The answer is a next state with the given property. -/
def after (a : Answer) (p : State → Bool) : Bool :=
  match a with
  | .next s => p s
  | .fault _ => false
  | .refused _ => false

/-- The next state of an answer. -/
def nextOf (a : Answer) : State :=
  match a with
  | .next s => s
  | .fault _ => State.reset
  | .refused _ => State.reset

/-- The answer is the given refusal. -/
def isRefused (a : Answer) (r : Refusal) : Bool :=
  match a with
  | .next _ => false
  | .fault _ => false
  | .refused q => q == r

/-- OUT holds exactly the bytes of `l` from `a` on. -/
def holds (s : State) (a : Nat) (l : List Byte) : Bool := s.outBuf.readRun a l.length == some l

/-! ### Ill-formed terms -/

/-- R92, R101: a raw payload has at least one byte. -/
theorem test_ill_formed_raw_empty : (Instr.raw []).wellFormed = false := by decide

/-- R92, R101: a raw payload has at most 4096 bytes. -/
theorem test_ill_formed_raw_over (payload : List Byte) (h : 4096 < payload.length) :
    (Instr.raw payload).wellFormed = false := by
  simp only [Instr.wellFormed, Bool.and_eq_false_iff, decide_eq_false_iff_not]
  omega

/-- R92, R101: 4097 bytes are one too many. -/
theorem test_ill_formed_raw_long : (Instr.raw (List.replicate 4097 0#8)).wellFormed = false :=
  test_ill_formed_raw_over _ (by rw [List.length_replicate]; decide)

/-- R93: signature `0b011` is a conformant header's. -/
theorem test_ill_formed_hdrRNs_signature : (Instr.hdrRNs 3#3 5#12).wellFormed = false := by decide

/-- R93: the word 0x0000 is the end marker's. -/
theorem test_ill_formed_hdrRNs_zero : (Instr.hdrRNs 0#3 0#12).wellFormed = false := by decide

/-- R93: signature `0b011` is a conformant header's. -/
theorem test_ill_formed_hdrCNs_signature : (Instr.hdrCNs 3#3 0#12).wellFormed = false := by decide

/-- R90: incomplete tokens, and a raw payload of a size no header declares, are rejected by name. -/
theorem test_decode_rejects :
    decode .header [0x41#8] = .rejected .shortHeader ∧ decode .tag [] = .rejected .shortTag ∧
      decode .literal [] = .rejected .shortLiteral ∧ decode (.reference 1) [0#8] = .rejected .shortReference ∧
      decode (.raw 2) [0#8] = .rejected .shortRaw ∧ decode (.raw 0) [0#8] = .rejected .badRawSize ∧
      decode (.raw 4097) [] = .rejected .badRawSize ∧
      decode .command [2#8, 0#8, 0#8] = .rejected .shortCommand := by decide

/-! ### Words written out from the spec's encodings, each with its encoding back -/

/-- R91, R93: 0x0000. -/
theorem test_decode_endMark :
    decode .header [0x00#8, 0x00#8] = .token .endMark [] ∧
      encode .endMark = [0x00#8, 0x00#8] := by decide

/-- L2.2: 0x3FFF, bits 0 011 111111111111. -/
theorem test_decode_hdrR :
    decode .header [0xFF#8, 0x3F#8] = .token (.hdrR 4095#12) [] ∧
      encode (.hdrR 4095#12) = [0xFF#8, 0x3F#8] := by decide

/-- L2.2: 0xB00C, bits 1 011 000000001100. -/
theorem test_decode_hdrC :
    decode .header [0x0C#8, 0xB0#8] = .token (.hdrC 12#12) [] ∧
      encode (.hdrC 12#12) = [0x0C#8, 0xB0#8] := by decide

/-- L2.2: 0x4ABC, bits 0 100 101010111100. -/
theorem test_decode_hdrRNs :
    decode .header [0xBC#8, 0x4A#8] = .token (.hdrRNs 4#3 0xABC#12) [] ∧
      encode (.hdrRNs 4#3 0xABC#12) = [0xBC#8, 0x4A#8] := by decide

/-- L2.2: 0x0001, bits 0 000 000000000001: not the end marker. -/
theorem test_decode_hdrRNs_low :
    decode .header [0x01#8, 0x00#8] = .token (.hdrRNs 0#3 1#12) [] ∧
      encode (.hdrRNs 0#3 1#12) = [0x01#8, 0x00#8] := by decide

/-- L2.2: 0x8000, bits 1 000 000000000000. -/
theorem test_decode_hdrCNs :
    decode .header [0x00#8, 0x80#8] = .token (.hdrCNs 0#3 0#12) [] ∧
      encode (.hdrCNs 0#3 0#12) = [0x00#8, 0x80#8] := by decide

/-- R101: the payload itself. -/
theorem test_decode_raw :
    decode (.raw 3) [0x41#8, 0x42#8, 0x43#8] = .token (.raw [0x41#8, 0x42#8, 0x43#8]) [] ∧
      encode (.raw [0x41#8, 0x42#8, 0x43#8]) = [0x41#8, 0x42#8, 0x43#8] := by decide

/-- R95: P3's tag 0x0C. -/
theorem test_decode_tag :
    decode .tag [0x0C#8] = .token (.tag 0x0C#8) [] ∧
      encode (.tag 0x0C#8) = [0x0C#8] := by decide

/-- R96: a literal byte. -/
theorem test_decode_lit :
    decode .literal [0xFF#8] = .token (.lit 0xFF#8) [] ∧
      encode (.lit 0xFF#8) = [0xFF#8] := by decide

/-- P4: 0xF00D at 16, bits 1111 000000001101. -/
theorem test_decode_refO4 :
    decode (.reference 16) [0x0D#8, 0xF0#8] = .token (.refO4 15#4 13#12) [] ∧
      encode (.refO4 15#4 13#12) = [0x0D#8, 0xF0#8] := by decide

/-- L2.4: 0x8000 at 17, bits 10000 00000000000. -/
theorem test_decode_refO5 :
    decode (.reference 17) [0x00#8, 0x80#8] = .token (.refO5 16#5 0#11) [] ∧
      encode (.refO5 16#5 0#11) = [0x00#8, 0x80#8] := by decide

/-- L2.4: 0xFC00 at 33, bits 111111 0000000000. -/
theorem test_decode_refO6 :
    decode (.reference 33) [0x00#8, 0xFC#8] = .token (.refO6 63#6 0#10) [] ∧
      encode (.refO6 63#6 0#10) = [0x00#8, 0xFC#8] := by decide

/-- L2.4: 0x01FF at 128, bits 0000000 111111111. -/
theorem test_decode_refO7 :
    decode (.reference 128) [0xFF#8, 0x01#8] = .token (.refO7 0#7 511#9) [] ∧
      encode (.refO7 0#7 511#9) = [0xFF#8, 0x01#8] := by decide

/-- L2.4: 0xFF00 at 129, bits 11111111 00000000. -/
theorem test_decode_refO8 :
    decode (.reference 129) [0x00#8, 0xFF#8] = .token (.refO8 255#8 0#8) [] ∧
      encode (.refO8 255#8 0#8) = [0x00#8, 0xFF#8] := by decide

/-- L2.4: 0xFF80 at 257, bits 111111111 0000000. -/
theorem test_decode_refO9 :
    decode (.reference 257) [0x80#8, 0xFF#8] = .token (.refO9 511#9 0#7) [] ∧
      encode (.refO9 511#9 0#7) = [0x80#8, 0xFF#8] := by decide

/-- L2.4: 0x003F at 1024, bits 0000000000 111111. -/
theorem test_decode_refO10 :
    decode (.reference 1024) [0x3F#8, 0x00#8] = .token (.refO10 0#10 63#6) [] ∧
      encode (.refO10 0#10 63#6) = [0x3F#8, 0x00#8] := by decide

/-- L2.4: 0xFFE0 at 1025, bits 11111111111 00000. -/
theorem test_decode_refO11 :
    decode (.reference 1025) [0xE0#8, 0xFF#8] = .token (.refO11 2047#11 0#5) [] ∧
      encode (.refO11 2047#11 0#5) = [0xE0#8, 0xFF#8] := by decide

/-- L2.4: 0x800F at 2049, bits 100000000000 1111. -/
theorem test_decode_refO12 :
    decode (.reference 2049) [0x0F#8, 0x80#8] = .token (.refO12 2048#12 15#4) [] ∧
      encode (.refO12 2048#12 15#4) = [0x0F#8, 0x80#8] := by decide

/-- R22: OP 0. -/
theorem test_decode_cmdNop :
    decode .command [0x00#8, 0x00#8, 0x00#8, 0x00#8] = .token (.cmdNop 0#30) [] ∧
      encode (.cmdNop 0#30) = [0x00#8, 0x00#8, 0x00#8, 0x00#8] := by decide

/-- R22: OP 1, bits 31:2 ignored. -/
theorem test_decode_cmdCompress :
    decode .command [0x05#8, 0x00#8, 0x00#8, 0x80#8] = .token (.cmdCompress 0x20000001#30) [] ∧
      encode (.cmdCompress 0x20000001#30) = [0x05#8, 0x00#8, 0x00#8, 0x80#8] := by decide

/-- L2.7: 0xFFFFFFF6, OP 2. -/
theorem test_decode_cmdDecompress :
    decode .command [0xF6#8, 0xFF#8, 0xFF#8, 0xFF#8] = .token (.cmdDecompress 0x3FFFFFFD#30) [] ∧
      encode (.cmdDecompress 0x3FFFFFFD#30) = [0xF6#8, 0xFF#8, 0xFF#8, 0xFF#8] := by decide

/-- R22: OP 3. -/
theorem test_decode_cmdRsvd :
    decode .command [0x03#8, 0x00#8, 0x00#8, 0x00#8] = .token (.cmdRsvd 0#30) [] ∧
      encode (.cmdRsvd 0#30) = [0x03#8, 0x00#8, 0x00#8, 0x00#8] := by decide

/-- L2.4: the same word at two positions. -/
theorem test_decode_by_position :
    decodeRef 32 0xFFFF#16 = .refO5 31#5 2047#11 ∧ decodeRef 33 0xFFFF#16 = .refO6 63#6 1023#10 := by decide

/-- The rows of the opcode table that their fixed bits name. -/
theorem test_table_words :
    decodeTableWord 16 0 = some .endMark ∧ decodeTableWord 16 0x3000 = some (.hdrR 0#12) ∧
      decodeTableWord 16 0xB000 = some (.hdrC 0#12) ∧ decodeTableWord 16 0x0001 = some (.hdrRNs 0#3 1#12) ∧
      decodeTableWord 16 0x8000 = some (.hdrCNs 0#3 0#12) ∧ decodeTableWord 8 0 = some (.cmdNop 0#30) ∧
      decodeTableWord 8 1 = some (.cmdCompress 0#30) ∧ decodeTableWord 8 2 = some (.cmdDecompress 0#30) ∧
      decodeTableWord 32 3 = some (.cmdRsvd 0#30) := by decide

/-- The first step after reset runs a placed header: 0x3000 declares one raw byte (L2.2). -/
theorem test_withFetchWord_header :
    after (step (State.reset.withFetchWord 16 0x3000))
      (fun t => t.size == 1#13 && (t.chunkEnd == 3#33 && t.dstate == .raw)) = true := by decide

/-- The first step after reset runs a placed command that changes nothing (R22). -/
theorem test_withFetchWord_command :
    after (step (State.reset.withFetchWord 8 3)) (fun t => t == State.reset) = true := by
  have h : step (State.reset.withFetchWord 8 3) = .next State.reset := rfl
  rw [h]
  exact beq_self_eq_true _

/-! ### Single steps, from the vectors of the spec -/

/-- L2.2 `00 00 41 42`: END completes; `IP` is past the marker. -/
theorem test_step_endMark :
    after (step (decoder .hdr 0 0 [0x00#8, 0x00#8, 0x41#8, 0x42#8]))
      (fun t => t.status == 0xA#32 && (t.ip == 2#33 && (t.outLen == 0 && t.dstate == .done))) = true := by decide

/-- P2: `02 30` opens a raw chunk of 3 bytes. -/
theorem test_step_hdrR :
    after (step (decoder .hdr 0 0 [0x02#8, 0x30#8, 0x41#8]))
      (fun t => t.size == 3#13 && (t.chunkEnd == 5#33 && (t.dstate == .raw && t.cflag == false))) = true := by decide

/-- L2.2: `FF BF` opens a compressed chunk of 4096 bytes. -/
theorem test_step_hdrC :
    after (step (decoder .hdr 0 0 [0xFF#8, 0xBF#8]))
      (fun t => t.size == 4096#13 && (t.chunkEnd == 4098#33 && (t.dstate == .tag && t.cflag == true))) = true := by
  decide

/-- P5, run 1: `00 70` under strict validation is InvalidHeader. -/
theorem test_step_hdrRNs_strict :
    after (step { decoder .hdr 0 0 [0x00#8, 0x70#8, 0x41#8] with strictL := true })
      (fun t => t.status == 0xB#32 && (t.err == 0x12#32 && (t.faultIp == 0 && t.dstate == .hdr))) = true := by decide

/-- P5, run 2: `00 70` is decoded as a raw header. -/
theorem test_step_hdrRNs_lenient :
    after (step (decoder .hdr 0 0 [0x00#8, 0x70#8, 0x41#8]))
      (fun t => t.size == 1#13 && (t.dstate == .raw && t.ip == 2#33)) = true := by decide

/-- L2.2 `00 80 00`: strict. -/
theorem test_step_hdrCNs_strict :
    after (step { decoder .hdr 0 0 [0x00#8, 0x80#8, 0x00#8] with strictL := true })
      (fun t => t.err == 0x12#32 && t.status == 0xB#32) = true := by decide

/-- L2.2 `00 80 00`: lenient. -/
theorem test_step_hdrCNs_lenient :
    after (step (decoder .hdr 0 0 [0x00#8, 0x80#8, 0x00#8]))
      (fun t => t.dstate == .tag && (t.chunkEnd == 3#33 && t.status == 0x9#32)) = true := by decide

/-- P2: the raw payload "ABC". -/
theorem test_step_raw :
    after (step { decoder .raw 2 5 [0x02#8, 0x30#8, 0x41#8, 0x42#8, 0x43#8] with size := 3 })
      (fun t => holds t 0 [0x41#8, 0x42#8, 0x43#8] && (t.olen == 3 && (t.ip == 5#33 && t.dstate == .hdr))) = true := by
  decide

/-- L2.2 `05 30 41 42`: TI2 at 2. -/
theorem test_step_raw_truncated :
    after (step { decoder .raw 2 8 [0x05#8, 0x30#8, 0x41#8, 0x42#8] with size := 6 })
      (fun t => t.err == 0x21#32 && (t.faultIp == 2 && (t.faultPos == 0 && t.outBuf == []))) = true := by decide

/-- P3: the tag 0x0C opens a group. -/
theorem test_step_tag :
    after (step (decoder .tag 2 9 [0x06#8, 0xB0#8, 0x0C#8, 0x61#8]))
      (fun t => t.tag == 0x0C#8 && (t.ip == 3#33 && (t.idx == 0 && t.dstate == .item))) = true := by decide

/-- L1-2b, step 13's kind at a tag: the input ends inside the chunk (TI3). -/
theorem test_step_tag_truncated :
    after (step (decoder .tag 4 9 [0x06#8, 0xB0#8, 0x0C#8, 0x61#8]))
      (fun t => t.err == 0x31#32 && t.faultIp == 4) = true := by decide

/-- L2.3: a literal. -/
theorem test_step_lit :
    after (step (itemAt 1 0#8 1 4 5 [0x02#8, 0xB0#8, 0x00#8, 0x00#8, 0xFF#8]))
      (fun t => holds t 0 [0x61#8, 0xFF#8] && (t.pos == 2#13 && (t.olen == 2 && (t.ip == 5#33 && t.idx == 2#4)))) =
        true := by decide

/-- L2.3 `04 B0 02 41 FC 0F 42`: a literal at 4096 is MR4 at 6. -/
theorem test_step_lit_full :
    after (step (itemAt 4096 2#8 2 6 7 [0x04#8, 0xB0#8, 0x02#8, 0x41#8, 0xFC#8, 0x0F#8, 0x42#8]))
      (fun t => t.err == 0x43#32 && (t.faultIp == 6 && t.faultPos == 4096)) = true := by decide

/-- V-L1-1: the copy of displacement 1 sees its own bytes. -/
theorem test_step_refO4_overlap :
    after (step { itemAt 1 2#8 1 4 6 [0x03#8, 0xB0#8, 0x02#8, 0x41#8, 0x07#8, 0x00#8] with outBuf := cells 0 [0x41#8] })
      (fun t => holds t 0 (List.replicate 11 0x41#8) && (t.pos == 11#13 && (t.ip == 6#33 && t.idx == 2#4))) = true := by
  decide

/-- P3: displacement 10 at position 9 is MR2, and the step writes nothing else. -/
theorem test_step_refO4_far :
    after (step (itemAt 9 0x0C#8 3 7 9 [0x06#8, 0xB0#8, 0x0C#8, 0x61#8, 0x62#8, 0x04#8, 0x10#8, 0x00#8, 0x90#8]))
      (fun t => t.status == 0xB#32 && (t.err == 0x23#32 && (t.faultIp == 7 && (t.faultPos == 9 && t.pos == 9#13)))) =
        true := by decide

/-- L2.4: word 0x8000 at 17, displacement 17, length 3, copies the window's first three bytes. -/
theorem test_step_refO5 :
    after (step { itemAt 17 2#8 1 0 2 [0x00#8, 0x80#8] with
        outBuf := cells 0 [0x41#8, 0x42#8, 0x43#8] })
      (fun t => holds t 17 [0x41#8, 0x42#8, 0x43#8] && (t.pos == 20#13 && t.olen == 20)) = true := by decide

/-- R98, R144: the word 0x0000 at 64 repeats the last byte three times. -/
theorem test_step_refO6 :
    after (exec (.refO6 0#6 0#10) (itemAt 64 2#8 1 0 2 [0x00#8, 0x00#8]))
      (fun t => holds t 64 [0x61#8, 0x61#8, 0x61#8] && (t.pos == 67#13 && t.ip == 2#33)) = true := by decide

/-- R98, R144: the word 0x0000 at 128 repeats the last byte three times. -/
theorem test_step_refO7 :
    after (exec (.refO7 0#7 0#9) (itemAt 128 2#8 1 0 2 [0x00#8, 0x00#8]))
      (fun t => holds t 128 [0x61#8, 0x61#8, 0x61#8] && (t.pos == 131#13 && t.ip == 2#33)) = true := by decide

/-- R98, R144: the word 0x0000 at 256 repeats the last byte three times. -/
theorem test_step_refO8 :
    after (exec (.refO8 0#8 0#8) (itemAt 256 2#8 1 0 2 [0x00#8, 0x00#8]))
      (fun t => holds t 256 [0x61#8, 0x61#8, 0x61#8] && (t.pos == 259#13 && t.ip == 2#33)) = true := by decide

/-- R98, R144: the word 0x0000 at 512 repeats the last byte three times. -/
theorem test_step_refO9 :
    after (exec (.refO9 0#9 0#7) (itemAt 512 2#8 1 0 2 [0x00#8, 0x00#8]))
      (fun t => holds t 512 [0x61#8, 0x61#8, 0x61#8] && (t.pos == 515#13 && t.ip == 2#33)) = true := by decide

/-- R98, R144: the word 0x0000 at 1024 repeats the last byte three times. -/
theorem test_step_refO10 :
    after (exec (.refO10 0#10 0#6) (itemAt 1024 2#8 1 0 2 [0x00#8, 0x00#8]))
      (fun t => holds t 1024 [0x61#8, 0x61#8, 0x61#8] && (t.pos == 1027#13 && t.ip == 2#33)) = true := by decide

/-- R98, R144: the word 0x0000 at 2048 repeats the last byte three times. -/
theorem test_step_refO11 :
    after (exec (.refO11 0#11 0#5) (itemAt 2048 2#8 1 0 2 [0x00#8, 0x00#8]))
      (fun t => holds t 2048 [0x61#8, 0x61#8, 0x61#8] && (t.pos == 2051#13 && t.ip == 2#33)) = true := by decide

/-- R98, R144: the word 0x0000 at 4093 repeats the last byte three times. -/
theorem test_step_refO12 :
    after (exec (.refO12 0#12 0#4) (itemAt 4093 2#8 1 0 2 [0x00#8, 0x00#8]))
      (fun t => holds t 4093 [0x61#8, 0x61#8, 0x61#8] && (t.pos == 4096#13 && t.ip == 2#33)) = true := by decide

/-- L2.4: word 0x0004 at 4090, length 7, is MR3. -/
theorem test_step_refO12_long :
    after (step (itemAt 4090 6#8 2 6 8 [0x05#8, 0xB0#8, 0x06#8, 0x41#8, 0xF6#8, 0x0F#8, 0x04#8, 0x00#8]))
      (fun t => t.err == 0x33#32 && (t.faultIp == 6 && t.faultPos == 4090)) = true := by decide

/-- L2.4 `01 B0 01 00`: a word across the chunk's end is TI4, before its displacement is looked at. -/
theorem test_step_ref_straddle :
    after (step (itemAt 0 1#8 0 3 4 [0x01#8, 0xB0#8, 0x01#8, 0x00#8]))
      (fun t => t.err == 0x41#32 && t.faultIp == 3) = true := by decide

/-- L2.4 `03 B0 02 41 07`: the word is inside the chunk but past the input, TI3. -/
theorem test_step_ref_truncated :
    after (step (itemAt 1 2#8 1 4 6 [0x03#8, 0xB0#8, 0x02#8, 0x41#8, 0x07#8]))
      (fun t => t.err == 0x31#32 && (t.faultIp == 4 && t.faultPos == 1)) = true := by decide

/-- L2.7: CMD = 0 while IDLE changes nothing. -/
theorem test_step_cmdNop :
    after (step { block [] with host := [.writeReg 0 0] }) (fun t => t == block []) = true := by decide

/-- L2.7: CMD = 3 while DONE changes nothing. -/
theorem test_step_cmdRsvd :
    after (step { block [] with status := 0xA#32, host := [.writeReg 0 3] }) (fun t => t.status == 0xA#32) = true := by
  decide

/-- L2.7: 0xFFFFFFF6 starts DECOMPRESS. -/
theorem test_step_cmdDecompress :
    after (step { block [] with err := 0x12#32, host := [.writeReg 0 0xFFFFFFF6#32] })
      (fun t => t.status == 0x9#32 && (t.dstate == .hdr && t.err == 0)) = true := by decide

/-- R200: COMPRESS starts. -/
theorem test_step_cmdCompress :
    after (step { block [] with host := [.writeReg 0 1] })
      (fun t => t.status == 0x5#32 && (t.estate == .slice && t.eidx == 8#4)) = true := by decide

/-- R278: CMD while BUSY is refused. -/
theorem test_step_cmd_busy :
    isRefused (step { decoder .hdr 0 0 [] with host := [.writeReg 0 2] }) .hostWriteWhileBusy = true := by decide

/-- R275, step 2: DECOMPRESS of one byte that the host has not loaded is refused. -/
theorem test_step_cmd_not_loaded :
    isRefused (step { block [] with inLen := 1, host := [.writeReg 0 2] }) .inputNotLoaded = true := by decide

/-- R21, R71: the register at its own host address. -/
theorem test_register_address :
    State.registerAt { block [] with regBase := 0x1000 } (State.registerAddress { block [] with regBase := 0x1000 } 7) =
      some 7 ∧ State.registerAt { block [] with regBase := 0x1000 } 0xFFF = none := by decide

/-- L2.7: CFG keeps bit 0, and reads it. -/
theorem test_step_cfg :
    after (step { block [] with host := [.writeReg 1 0xFFFFFFFF#32] })
      (fun t => t.cfg == 1#32 && regValue 1 t == 1#32) = true := by decide

/-- L2.5: in "abcXabcYabc" the match at 8 is the nearest of two of length 3. -/
theorem test_choose_nearest :
    chooseItem [97#8, 98#8, 99#8, 88#8, 97#8, 98#8, 99#8, 89#8, 97#8, 98#8, 99#8] 8 = some (.ref 8 4 3) := by decide

/-- P6: the fourth item of "abcabcabcabc" is `R(3, 3, 9)`, word 0x2006. -/
theorem test_choose_and_pack :
    chooseItem [97#8, 98#8, 99#8, 97#8, 98#8, 99#8, 97#8, 98#8, 99#8, 97#8, 98#8, 99#8] 3 = some (.ref 3 3 9) ∧
      refWord 3 3 9 = 0x2006#16 := by decide

/-- V-L1-4: "A" is written raw, `00 30 41`. -/
theorem test_step_emit_raw :
    after (step { encoder .emit [0x41#8] with
        sliceLen := 1, epos := 1, candLen := 2, eidx := 1, cand := cells 0 [0x00#8, 0x41#8] })
      (fun t => holds t 0 [0x00#8, 0x30#8, 0x41#8] && (t.olen == 3 && t.sliceBase == 1)) = true := by decide

/-- L2.5 "AAAAA": the candidate of 4 bytes is written compressed, `03 B0 02 41 01 00`. -/
theorem test_step_emit_compressed :
    after (step { encoder .emit (List.replicate 5 0x41#8) with
        sliceLen := 5, epos := 5, candLen := 4, eidx := 2, cand := cells 0 [0x02#8, 0x41#8, 0x01#8, 0x00#8] })
      (fun t => holds t 0 [0x03#8, 0xB0#8, 0x02#8, 0x41#8, 0x01#8, 0x00#8] && (t.olen == 6 && t.sliceBase == 5)) =
        true := by decide

/-- P6: `chunk.c` of "abc" and `ref 3, 9` (R107). -/
theorem test_assemble_chunk :
    assemble 0 [.chunkC [.lit 97#8, .lit 98#8, .lit 99#8, .ref 3 9]] =
      .bytes [0x05#8, 0xB0#8, 0x08#8, 0x61#8, 0x62#8, 0x63#8, 0x06#8, 0x20#8] 12 := by decide

/-- P3: its last line, `ref 10, 3` at 9, is inside the word's range but `ref 17, 3` is not (R100, R106). -/
theorem test_assemble_reference :
    assembleItem 9 (.ref 10 3) = .bytes [0x00#8, 0x90#8] 12 ∧ assembleItem 9 (.ref 17 3) = .refused .badReference := by
  decide

/-- V-L1-4: `00 30 41` decodes to "A", and "A" encodes to it. -/
theorem test_functions :
    decompress false [0x00#8, 0x30#8, 0x41#8] = some (.ok [0x41#8]) ∧
      compress [0x41#8] = some [0x00#8, 0x30#8, 0x41#8] := by decide

/-- P5, run 1: `00 70 41` under strict validation. -/
theorem test_decompress_strict : decompress true [0x00#8, 0x70#8, 0x41#8] = some (.err 2#2 1#4 0 0) := by decide

/-! ### Witnesses of the statements' hypotheses -/

/-- An answer with a property of its next state has that next state. -/
theorem next_of_after {a : Answer} {p : State → Bool} (h : after a p = true) : ∃ t, a = .next t ∧ p t = true := by
  cases a with
  | next s => exact ⟨s, rfl, h⟩
  | fault r => cases h
  | refused r => cases h

/-- The invariant of a state in which no command runs. -/
theorem inv_of_stopped {s : State} (hb : s.buffersWf = true) (hr : s.registersWf = true) (he : s.engine ≠ .busy) :
    s.Inv :=
  ⟨hb, hr, fun h => absurd h (by simp [State.decoding, he]), fun h => absurd h (by simp [State.encoding, he]),
    fun h => absurd h he⟩

/-- The invariant of a state in which DECOMPRESS runs. -/
theorem inv_of_decoder {s : State} (hb : s.buffersWf = true) (hr : s.registersWf = true) (hl : s.inputLoaded = true)
    (he : s.encoding = false) (hd : s.decoderInv) : s.Inv :=
  ⟨hb, hr, fun _ => hd, fun h => absurd h (by simp [he]), fun _ => hl⟩

/-- The invariant of a state in which COMPRESS runs. -/
theorem inv_of_encoder {s : State} (hb : s.buffersWf = true) (hr : s.registersWf = true) (hl : s.inputLoaded = true)
    (hd : s.decoding = false) (he : s.encoderInv) : s.Inv :=
  ⟨hb, hr, fun h => absurd h (by simp [hd]), fun _ => he, fun _ => hl⟩

/-- V-L1-1 before its back-reference. -/
def atOverlap : State := itemAt 1 2#8 1 4 6 [0x03#8, 0xB0#8, 0x02#8, 0x41#8, 0x07#8, 0x00#8]

/-- The stream `00 30 41` at its start. -/
def atRawHeader : State := decoder .hdr 0 0 [0x00#8, 0x30#8, 0x41#8]

/-- The stream `00 30 41` at its payload. -/
def atRawByte : State := { decoder .raw 2 3 [0x00#8, 0x30#8, 0x41#8] with size := 1 }

/-- "AAAAA" at its second item. -/
def atSecondItem : State :=
  { encoder .item (List.replicate 5 0x41#8) with
    sliceLen := 5
    epos := 1
    candLen := 2
    eidx := 1
    cand := cells 0 [0x00#8, 0x41#8]
    mfIndex := [0] }

/-- "AAAAA" with its items packed. -/
def atItemsEnd : State :=
  { encoder .item (List.replicate 5 0x41#8) with
    sliceLen := 5
    epos := 5
    candLen := 4
    eidx := 2
    cand := cells 0 [0x02#8, 0x41#8, 0x01#8, 0x00#8] }

/-- "AAAAA" before its chunk is written compressed. -/
def atEmitCompressed : State := { atItemsEnd with estate := .emit }

/-- "A" before its chunk is written raw. -/
def atEmitRaw : State :=
  { encoder .emit [0x41#8] with
    sliceLen := 1
    epos := 1
    candLen := 2
    eidx := 1
    cand := cells 0 [0x00#8, 0x41#8] }

/-- `00 30 41` after its chunk. -/
def atInputEnd : State := decoder .hdr 3 3 [0x00#8, 0x30#8, 0x41#8]

/-- One byte where a header starts. -/
def atLoneByte : State := decoder .hdr 0 0 [0x41#8]

/-- `00 00` at its start. -/
def atEndMark : State := decoder .hdr 0 0 [0x00#8, 0x00#8]

/-- A header under strict validation. -/
def atStrictHeader : State := { atRawHeader with strictL := true }

/-- A raw chunk that ends one byte beyond the input. -/
def atRawOver : State := { atRawByte with chunkEnd := 4 }

/-- A tag is due and the budget is spent. -/
def atTagSpent : State := decoder .tag 3 3 [0x00#8, 0xB0#8, 0x00#8]

/-- A tag is due at the input's end. -/
def atTagMissing : State := decoder .tag 3 4 [0x01#8, 0xB0#8, 0x00#8]

/-- A tag is due at the input's last byte. -/
def atTagLast : State := decoder .tag 2 3 [0x00#8, 0xB0#8, 0x00#8]

/-- A full group. -/
def atGroupEnd : State := { atOverlap with idx := 8 }

/-- The budget spent at item 7. -/
def atItemsSpent : State := { atOverlap with idx := 7, ip := 6 }

/-- Item 7, a literal. -/
def atLastLiteral : State := { atOverlap with idx := 7 }

/-- A literal is due at the input's end. -/
def atLiteralMissing : State := itemAt 1 0#8 1 4 6 [0x05#8, 0xB0#8, 0x00#8, 0x41#8]

/-- A literal is due at position 4096. -/
def atLiteralFull : State := itemAt 4096 0#8 1 3 6 [0x05#8, 0xB0#8, 0x00#8, 0x41#8]

/-- A literal is due at position 4095, for the last byte of OUT. -/
def atLiteralLast : State := { itemAt 4095 0#8 7 3 6 [0x05#8, 0xB0#8, 0x00#8, 0x41#8] with outCap := 4096 }

/-- A back-reference one byte across its chunk's end. -/
def atStraddle : State := { atOverlap with chunkEnd := 5 }

/-- A back-reference one byte past the input. -/
def atCutReference : State := { atOverlap with inLen := 5 }

/-- The budget spent at item 2. -/
def atSpentGroup : State := { atOverlap with ip := 6, idx := 2 }

/-- A back-reference at position 0. -/
def atBadReference : State := itemAt 0 1#8 0 3 5 [0x02#8, 0xB0#8, 0x01#8, 0x00#8, 0x00#8]

/-- An error, and a write of the reserved command pending. -/
def errored : State := { block [] with status := 0xB#32, host := [.writeReg 0 3] }

/-- Leftovers of an earlier command. -/
def afterError : State := { block [0x42#8] with status := 0xB#32, err := 0x23#32, pos := 9, epos := 4 }

/-- No slice is left. -/
def afterSlices : State := { encoder .slice [0x41#8] with sliceBase := 1 }

/-- A slice is left. -/
def atSlice : State := encoder .slice [0x41#8]

/-- Room for one group and one back-reference in CAND. -/
def atCandFull : State := { atSecondItem with eidx := 8, candLen := 4605 }

/-- A literal is due and OUT is full. -/
def atLiteralNoRoom : State := { atOverlap with tag := 0, outCap := 1 }

/-- A raw payload is due and OUT has no byte. -/
def atRawNoRoom : State := { atRawByte with outCap := 0 }

/-- IN starts at OUT's last byte. -/
def sharing : State := { block [0x41#8] with inHostBase := 100000 + 7999 }

/-- IN starts after OUT. -/
def notSharing : State := { block [0x41#8] with inHostBase := 100000 + 8000 }

/-- DECOMPRESS of nothing, running. -/
def idleDecoder : State := decoder .hdr 0 0 []

/-- The block with `00 30 41` loaded. -/
def chunkBlock : State := block [0x00#8, 0x30#8, 0x41#8]

/-- A group with an item, and one byte of CAND left. -/
def atLastByte : State := { atSecondItem with candLen := 4607 }

/-- A reference to eleven bytes of output is due, and OUT has room for ten. -/
def atReferenceNoRoom : State := { atOverlap with outCap := 10 }

/-- A raw chunk of three bytes is due, and OUT has room for two. -/
def atEmitNoRoom : State := { atEmitRaw with outCap := 2 }

/-- IN_LEN is 1 and no byte is loaded. -/
def notLoaded : State := { block [] with inLen := 1 }

/-- DONE, with one byte of output. -/
def doneOne : State := { block [] with status := 0xA#32, outLen := 1, outBuf := [(0, 0x41#8)] }

theorem inv_atOverlap : atOverlap.Inv :=
  inv_of_decoder (by decide) (by decide) (by decide) (by decide)
    ⟨by decide, by decide, by decide, by unfold Memory.listed; decide,
      ⟨by decide, by decide, by decide⟩, by decide⟩

theorem inv_atRawHeader : atRawHeader.Inv :=
  inv_of_decoder (by decide) (by decide) (by decide) (by decide)
    ⟨by decide, by decide, by decide, by unfold Memory.listed; decide, trivial⟩

theorem inv_atSecondItem : atSecondItem.Inv :=
  inv_of_encoder (by decide) (by decide) (by decide) (by decide)
    ⟨by decide, by decide, by decide, by decide, by decide, by decide, by decide, by decide, by decide, by decide,
      by unfold Memory.listed; decide⟩

theorem inv_atItemsEnd : atItemsEnd.Inv :=
  inv_of_encoder (by decide) (by decide) (by decide) (by decide)
    ⟨by decide, by decide, by decide, by decide, by decide, by decide, by decide, by decide, by decide, by decide,
      by unfold Memory.listed; decide⟩

theorem inv_atEmitCompressed : atEmitCompressed.Inv :=
  inv_of_encoder (by decide) (by decide) (by decide) (by decide)
    ⟨by decide, by decide, ⟨by decide, by decide, by decide, by decide, by decide, by decide, by decide, by decide,
      by unfold Memory.listed; decide⟩, by decide⟩

theorem inv_atEmitRaw : atEmitRaw.Inv :=
  inv_of_encoder (by decide) (by decide) (by decide) (by decide)
    ⟨by decide, by decide, ⟨by decide, by decide, by decide, by decide, by decide, by decide, by decide, by decide,
      by unfold Memory.listed; decide⟩, by decide⟩

theorem inv_atReferenceNoRoom : atReferenceNoRoom.Inv :=
  inv_of_decoder (by decide) (by decide) (by decide) (by decide)
    ⟨by decide, by decide, by decide, by unfold Memory.listed; decide,
      ⟨by decide, by decide, by decide⟩, by decide⟩

theorem inv_atEmitNoRoom : atEmitNoRoom.Inv :=
  inv_of_encoder (by decide) (by decide) (by decide) (by decide)
    ⟨by decide, by decide, ⟨by decide, by decide, by decide, by decide, by decide, by decide, by decide, by decide,
      by unfold Memory.listed; decide⟩, by decide⟩

theorem inv_block_empty : (block []).Inv := inv_of_stopped (by decide) (by decide) (by decide)

theorem inv_block_one : (block [0x41#8]).Inv := inv_of_stopped (by decide) (by decide) (by decide)

theorem inv_block_chunk : chunkBlock.Inv :=
  inv_of_stopped (by decide) (by decide) (by decide)

theorem witness_BitLengthIsLeast :
    1 ≤ 0x800 ∧ 0x800 < 2 ^ 12 ∧ bitLength 0x7FF = 11 ∧ 1 ≤ 1 ∧ 1 < 2 ^ 1 := by decide

/-- L2.1, at both ends of every range. -/
theorem witness_BfcFollowsTable :
    [0, 1, 16, 17, 32, 33, 64, 65, 128, 129, 256, 257, 512, 513, 1024, 1025, 2048, 2049, 4096].map bfc =
      [4, 4, 4, 5, 5, 6, 6, 7, 7, 8, 8, 9, 9, 10, 10, 11, 11, 12, 12] := by decide

theorem witness_BackReferenceOperands :
    0xF00D = (0x0D#8).toNat + 256 * (0xF0#8).toNat ∧ 12 = 16 - bfc 16 ∧ 11 = 16 - bfc 17 := by decide

theorem witness_DecodeOfEncode :
    ([(Instr.endMark, Place.header), (.hdrR 4095#12, .header), (.hdrC 0#12, .header), (.hdrRNs 0#3 1#12, .header),
        (.hdrCNs 7#3 0#12, .header), (.raw [0#8], .raw 1), (.tag 255#8, .tag), (.lit 0#8, .literal),
        (.refO4 15#4 4095#12, .reference 16), (.refO5 0#5 0#11, .reference 17), (.refO6 63#6 0#10, .reference 64),
        (.refO7 0#7 0#9, .reference 65), (.refO8 0#8 0#8, .reference 256), (.refO9 0#9 0#7, .reference 257),
        (.refO10 0#10 0#6, .reference 1024), (.refO11 0#11 0#5, .reference 1025),
        (.refO12 4095#12 15#4, .reference 4096), (.cmdNop 0#30, .command), (.cmdCompress 1#30, .command),
        (.cmdDecompress 2#30, .command), (.cmdRsvd 3#30, .command)].all
      fun x => x.1.wellFormed && x.1.standsAt x.2) = true := by decide

theorem witness_EncodeOfDecode :
    decode .header [0x0C#8, 0xB0#8, 0x00#8] = .token (.hdrC 12#12) [0x00#8] ∧
      decode (.reference 16) [0x0D#8, 0xF0#8, 0x02#8] = .token (.refO4 15#4 13#12) [0x02#8] := by decide

theorem witness_HeaderClassification :
    (0x3000#16 ≠ 0x0000#16 ∧ (0x3000#16).extractLsb' 12 3 = 3#3 ∧ (0x3000#16).getLsbD 15 = false) ∧
      ((0xBFFF#16).extractLsb' 12 3 = 3#3 ∧ (0xBFFF#16).getLsbD 15 = true) ∧
      (0x0001#16 ≠ 0x0000#16 ∧ (0x0001#16).extractLsb' 12 3 ≠ 3#3 ∧ (0x0001#16).getLsbD 15 = false) ∧
      ((0x8000#16).extractLsb' 12 3 ≠ 3#3 ∧ (0x8000#16).getLsbD 15 = true) := by decide

theorem witness_StepRunsToken :
    atRawHeader.tokenDue = some (.header, 2) ∧ atRawHeader.inBuf.readRun 0 2 = some [0x00#8, 0x30#8] ∧
      decode .header [0x00#8, 0x30#8] = .token (.hdrR 0#12) [] ∧ atRawHeader.host = [] ∧
      atRawByte.tokenDue = some (.raw 1, 1) ∧ atRawByte.inBuf.readRun 2 1 = some [0x41#8] ∧
      (decoder .tag 2 6 [0x03#8, 0xB0#8, 0x02#8, 0x41#8, 0x07#8, 0x00#8]).tokenDue = some (.tag, 1) ∧
      (itemAt 0 2#8 0 3 6 [0x03#8, 0xB0#8, 0x02#8, 0x41#8, 0x07#8, 0x00#8]).tokenDue = some (.literal, 1) ∧
      atOverlap.tokenDue = some (.reference 1, 2) ∧ atOverlap.inBuf.readRun 4 2 = some [0x07#8, 0x00#8] ∧
      decode (.reference 1) [0x07#8, 0x00#8] = .token (.refO4 0#4 7#12) [] ∧
      atOverlap.ip.toNat + 2 ≤ atOverlap.inLen.toNat ∧
      { atOverlap with host := [.wait, .readReg 2] }.host = .wait :: [.readReg 2] := by decide

theorem witness_StepRunsCommand :
    { block [] with host := [.writeReg 0 0xFFFFFFF6#32] }.host = .writeReg 0 0xFFFFFFF6#32 :: [] := rfl

theorem witness_EndOfInputAtHeader :
    (atInputEnd.decoding = true ∧
        atInputEnd.ip.toNat = atInputEnd.inLen.toNat) ∧
      (atLoneByte.host = [] ∧ atLoneByte.dstate = .hdr ∧
        atLoneByte.ip.toNat + 1 = atLoneByte.inLen.toNat) := by decide

theorem witness_EndMarkerCompletes :
    atEndMark.atHeader = true ∧ atEndMark.host = [] ∧
      atEndMark.inBuf.readRun 0 2 = some [0#8, 0#8] := by decide

/-- The last place where a header fits, and the place after it. -/
theorem witness_ConformantHeadersOpenChunk :
    (decoder .hdr 1 0 [0x41#8, 0x00#8, 0x30#8]).atHeader = true ∧
      (decoder .hdr 2 0 [0x41#8, 0x00#8, 0x30#8]).atHeader = false := by decide

theorem witness_ConformantHeadersOpenChunk_words :
    (0x3000#16 ≠ 0x0000#16 ∧ (0x3000#16).extractLsb' 12 3 = 3#3) ∧
      (0x7000#16 ≠ 0x0000#16 ∧ atRawHeader.atHeader = true ∧ atRawHeader.strictL = false) ∧
      (0xBFFF#16).toNat % 4096 = 4095 := by decide

theorem witness_NonStandardHeaders :
    atStrictHeader.atHeader = true ∧ atStrictHeader.strictL = true ∧
      atRawHeader.atHeader = true ∧ atRawHeader.strictL = false ∧ (7#3 : BitVec 3) ≠ 3#3 := by decide

theorem witness_RawPayloadIsCopied :
    (atRawByte.atRaw 1 = true ∧ atRawByte.chunkEnd.toNat = atRawByte.inLen.toNat ∧
        atRawByte.ip.toNat + 1 ≤ atRawByte.inLen.toNat ∧ (Instr.raw [0x41#8]).wellFormed = true ∧
        atRawByte.inBuf.readRun 2 1 = some [0x41#8] ∧ atRawByte.olen.toNat + 1 ≤ atRawByte.outCap.toNat ∧
        atRawByte.host = []) ∧
      (atRawOver.atRaw 1 = true ∧
        atRawOver.inLen.toNat + 1 = atRawOver.chunkEnd.toNat) := by decide

theorem witness_TagStep :
    (atTagSpent.decoding = true ∧
        atTagSpent.ip = atTagSpent.chunkEnd) ∧
      (atTagMissing.ip ≠ atTagMissing.chunkEnd ∧
        atTagMissing.inLen.toNat = atTagMissing.ip.toNat) ∧
      (atTagLast.ip ≠ atTagLast.chunkEnd ∧
        atTagLast.ip.toNat + 1 = atTagLast.inLen.toNat ∧
        atTagLast.inBuf.readRun 2 1 = some [0#8]) := by decide

theorem witness_ItemDispatch :
    (atGroupEnd.decoding = true ∧ atGroupEnd.idx = 8#4) ∧
      (atItemsSpent.idx ≠ 8#4 ∧
        atItemsSpent.ip = atItemsSpent.chunkEnd) ∧
      (atLastLiteral.tag.getLsbD 7 = false ∧ atLastLiteral.ip ≠ atOverlap.chunkEnd ∧
        atLastLiteral.inBuf.readRun 4 1 = some [0x07#8]) ∧
      (atOverlap.idx ≠ 8#4 ∧ atOverlap.ip ≠ atOverlap.chunkEnd ∧ atOverlap.tag.getLsbD atOverlap.idx.toNat = true ∧
        atOverlap.ip.toNat + 2 = atOverlap.chunkEnd.toNat ∧ atOverlap.ip.toNat + 2 = atOverlap.inLen.toNat ∧
        atOverlap.inBuf.readRun 4 2 = some [0x07#8, 0x00#8]) := by decide

/-- The input's end at 4, position 4096, and the last byte of a chunk at the last byte of OUT. -/
theorem witness_LiteralStep :
    (atLiteralMissing.atLiteral = true ∧
        atLiteralMissing.inLen.toNat = 4 ∧
        atLiteralMissing.ip.toNat = 4) ∧
      (atLiteralFull.atLiteral = true ∧
        atLiteralFull.pos.toNat = 4096) ∧
      (atLiteralLast.atLiteral = true ∧
        atLiteralLast.pos.toNat < 4096 ∧
        atLiteralLast.olen.toNat + 1 = 4096 ∧
        atLiteralLast.inBuf.readRun 3 1 = some [0x41#8]) := by decide

/-- One byte across the chunk's end, one past the input, one past the window, one past 4096. -/
theorem witness_BackReferenceStep_checks :
    (atStraddle.atRef 4 = true ∧
        atStraddle.chunkEnd.toNat + 1 = atStraddle.ip.toNat + 2) ∧
      (atCutReference.atRef 4 = true ∧
        atCutReference.ip.toNat + 2 = atCutReference.chunkEnd.toNat ∧
        atCutReference.inLen.toNat + 1 = atCutReference.ip.toNat + 2) ∧
      (refOperands (.refO4 1#4 0#12) = some (4, 2, 3) ∧ atOverlap.pos.toNat + 1 = 2) ∧
      (refOperands (.refO4 0#4 4093#12) = some (4, 1, 4096) ∧ 1 ≤ atOverlap.pos.toNat ∧ atOverlap.pos.toNat + 4096 = 4097) := by decide

/-- A legal copy, the longest one that ends at 4096 among them. -/
theorem witness_BackReferenceStep_legal :
    atOverlap.atRef 4 = true ∧ refOperands (.refO4 0#4 4092#12) = some (4, 1, 4095) ∧
      refOperands (.refO4 0#4 7#12) = some (4, 1, 10) ∧ decodeRef 1 0x0007#16 = .refO4 0#4 7#12 ∧
      atOverlap.inBuf.readRun 4 2 = some [0x07#8, 0x00#8] ∧ atOverlap.host = [] ∧
      atOverlap.ip.toNat + 2 = atOverlap.chunkEnd.toNat ∧ atOverlap.ip.toNat + 2 = atOverlap.inLen.toNat ∧
      1 ≤ atOverlap.pos.toNat ∧ atOverlap.pos.toNat + 4095 = 4096 ∧
      atOverlap.olen.toNat + 4095 ≤ atOverlap.outCap.toNat ∧ atOverlap.Inv :=
  ⟨by decide, by decide, by decide, by decide, by decide, by decide, by decide, by decide, by decide, by decide,
    by decide, inv_atOverlap⟩

/-- Every form stands somewhere. -/
theorem witness_BackReferenceStep_forms :
    ([(4, 16), (5, 17), (6, 33), (7, 65), (8, 129), (9, 257), (10, 513), (11, 1025), (12, 4096)].all
      fun x => (itemAt x.2 2#8 1 0 2 [0x00#8, 0x00#8]).atRef x.1) = true := by decide

/-- Up to the last byte of OUT. -/
theorem witness_CopyIsByteSerial :
    1 ≤ 1 ∧ 1 ≤ atOverlap.olen.toNat ∧ atOverlap.outBuf.listed (atOverlap.olen.toNat - 1) 1 ∧
      atOverlap.olen.toNat + 7999 = atOverlap.outCap.toNat :=
  ⟨by decide, by decide, by unfold Memory.listed; decide, by decide⟩

theorem witness_AbsentTagBitsIgnored :
    atSpentGroup.host = [] ∧ atSpentGroup.decoding = true ∧
      atSpentGroup.dstate = .item ∧
      atSpentGroup.ip = atSpentGroup.chunkEnd := by decide

/-- A chunk at OUT_BASE 1, with another byte before it. -/
theorem witness_ChunkIndependence :
    ∃ (s : State) (m : Memory), s.olen.toNat = s.outBase.toNat + s.pos.toNat ∧ s.pos.toNat ≤ 4096 ∧
      m ≠ s.outBuf ∧ (∀ a, s.outBase.toNat ≤ a → m.read a = s.outBuf.read a) ∧ s.outBase.toNat = 1 ∧
      (∃ u, exec (.refO4 0#4 0#12) s = .next u ∧ u.pos == 4#13) ∧ (refOperands (.refO4 0#4 0#12)).isSome = true :=
  by
  refine ⟨{ atOverlap with outBase := 1, olen := 2, outBuf := [(0, 7#8), (1, 9#8)] }, [(0, 8#8), (1, 9#8)], by decide,
    by decide, by decide, fun a h => ?_, by decide, next_of_after (p := fun u => u.pos == 4#13) (by decide), by decide⟩
  have h0 : (0 : Nat) ≠ a := fun e => by rw [← e] at h; exact absurd h (by decide)
  simp [Memory.read, h0]

theorem witness_ErrorEntryIsPrecise :
    atBadReference.host = [] ∧
      atBadReference.engine ≠ .error ∧
      (∃ t, step atBadReference = .next t ∧ (t.engine == .error) = true) ∧
      { block [] with status := 0xB#32 }.engine = .error :=
  ⟨by decide, by decide, next_of_after (by decide), by decide⟩

theorem witness_OnlyDecompressFails :
    ∃ t, step atBadReference = .next t ∧
      (t.engine == .error && t.err == 0x23#32) = true := next_of_after (by decide)

theorem witness_ErrorPersists :
    errored.engine = .error ∧
      (∃ t, step errored = .next t ∧ (t.engine == .error) = true) ∧
      (3#32 : Word).extractLsb' 0 2 = 3#2 ∧ (0xFFFFFFFC#32 : Word).extractLsb' 0 2 = 0#2 :=
  ⟨by decide, next_of_after (by decide), by decide, by decide⟩

theorem witness_CommandRegister :
    (block []).engine ≠ .busy ∧ idleDecoder.engine = .busy ∧
      (0xFFFFFFFC#32 : Word).extractLsb' 0 2 = 0#2 ∧ (3#32 : Word).extractLsb' 0 2 = 3#2 ∧
      (5#32 : Word).extractLsb' 0 2 = 1#2 ∧ (0xFFFFFFF6#32 : Word).extractLsb' 0 2 = 2#2 := by decide

theorem witness_DecompressStarts :
    (block [0x41#8]).engine ≠ .busy ∧ (block [0x41#8]).buffersShare = false ∧ (block [0x41#8]).inputLoaded = true ∧
      (block []).engine ≠ .busy ∧ (block []).host = [] ∧ (block []).inLen = 0 := by decide

theorem witness_CompressStarts :
    (block [0x41#8]).engine ≠ .busy ∧ (block [0x41#8]).buffersShare = false ∧ (block [0x41#8]).inputLoaded = true ∧
      (block []).engine ≠ .busy ∧ (block []).host = [] ∧ (block []).inLen = 0 := by decide

theorem witness_CommandsStartClean :
    (block [0x41#8]).inLen = afterError.inLen ∧
      (block [0x41#8]).registersWf = true ∧
      afterError.registersWf = true ∧
      (∃ t, exec (.cmdCompress 0#30) (block [0x41#8]) = .next t ∧ (t.err == 0) = true) ∧
      (∃ v, exec (.cmdCompress 0#30) afterError =
        .next v ∧ (v.err == 0) = true) :=
  ⟨by decide, by decide, by decide, next_of_after (by decide), next_of_after (by decide)⟩

theorem witness_SliceStep :
    atSlice.host = [] ∧ atSlice.encoding = true ∧
      atSlice.sliceBase.toNat + 1 = atSlice.inLen.toNat ∧
      afterSlices.sliceBase = atSlice.inLen := by decide

theorem witness_ItemStep :
    (atSecondItem.host = [] ∧ atSecondItem.encoding = true ∧ atSecondItem.estate = .item ∧ atSecondItem.Inv ∧
        atSecondItem.inBuf.readRun 0 5 = some (List.replicate 5 0x41#8) ∧ atSecondItem.epos ≠ atSecondItem.sliceLen) ∧
      (atItemsEnd.Inv ∧ atItemsEnd.inBuf.readRun 0 5 = some (List.replicate 5 0x41#8) ∧
        atItemsEnd.epos = atItemsEnd.sliceLen) :=
  ⟨⟨by decide, by decide, by decide, inv_atSecondItem, by decide, by decide⟩, inv_atItemsEnd, by decide, by decide⟩

theorem witness_ChoiceIsNearestLongest :
    chooseItem (List.replicate 5 0x41#8) 1 = some (.ref 1 1 4) ∧
      chooseItem (List.replicate 5 0x41#8) 0 = some (.lit 0x41#8) ∧ 1 < (List.replicate 5 0x41#8).length := by decide

theorem witness_MatchLengthIsLargest :
    1 < (List.replicate 5 0x41#8).length ∧ matchAt (List.replicate 5 0x41#8) 1 1 = 4 ∧
      maxLen 5 1 = 4 ∧ matchAt [0x41#8, 0x42#8, 0x41#8, 0x43#8] 2 2 = 1 := by decide

theorem witness_ChosenMatchesDecode :
    (List.replicate 5 0x41#8).length ≤ 4096 ∧ chooseItem (List.replicate 5 0x41#8) 1 = some (.ref 1 1 4) ∧
      { atOverlap with outBuf := cells 0 [0x41#8] }.olen.toNat = 0 + 1 ∧
      { atOverlap with outBuf := cells 0 [0x41#8] }.outBuf.read 0 = (List.replicate 5 0x41#8)[0]? ∧
      (∃ t, copyBytes 1 4 { atOverlap with outBuf := cells 0 [0x41#8] } = .next t ∧
        holds t 0 (List.replicate 5 0x41#8) = true) :=
  ⟨by decide, by decide, by decide, by decide, next_of_after (by decide)⟩

/-- The last places of CAND: a literal and a reference that open a group, a literal and a reference that do not. -/
theorem witness_ItemPacking :
    ({ atSecondItem with eidx := 8, candLen := 4606 }.eidx = 8#4 ∧
        { atSecondItem with eidx := 8, candLen := 4606 }.candLen.toNat + 1 + 1 = 4608) ∧
      (atCandFull.eidx = 8#4 ∧ atCandFull.candLen.toNat + 1 + 2 = 4608) ∧
      (atLastByte.eidx ≠ 8#4 ∧ atLastByte.candLen.toNat + 1 = 4608 ∧
        atLastByte.etagAt.toNat < atLastByte.candLen.toNat ∧
        atLastByte.cand.read atLastByte.etagAt.toNat = some 0x00#8) ∧
      ({ atLastByte with candLen := 4606 }.candLen.toNat + 2 = 4608) := by decide

theorem witness_EmitStep :
    (atEmitCompressed.candLen.toNat < atEmitCompressed.sliceLen.toNat ∧ atEmitCompressed.Inv ∧
        atEmitCompressed.cand.readRun 0 4 = some [0x02#8, 0x41#8, 0x01#8, 0x00#8] ∧
        BitVec.ofNat 16 (0xB000 ||| 3) = 0xB003#16 ∧ atEmitCompressed.olen.toNat + 2 + 4 ≤ atEmitCompressed.outCap.toNat) ∧
      (atEmitRaw.sliceLen.toNat ≤ atEmitRaw.candLen.toNat ∧ atEmitRaw.Inv ∧
        atEmitRaw.inBuf.readRun 0 1 = some [0x41#8] ∧ atEmitRaw.host = [] ∧ atEmitRaw.encoding = true ∧
        atEmitRaw.olen.toNat + 2 + 1 ≤ atEmitRaw.outCap.toNat) :=
  ⟨⟨by decide, inv_atEmitCompressed, by decide, by decide, by decide⟩, by decide, inv_atEmitRaw, by decide, by decide,
    by decide, by decide⟩

theorem witness_HeaderAndTagFrame :
    (∃ t, exec .endMark atEndMark = .next t ∧ (t.engine == .done) = true) ∧
      (∃ t, exec (.hdrC 3#12) atRawHeader = .next t ∧ (t.dstate == .tag) = true) ∧
      (∃ t, exec (.hdrRNs 7#3 0#12) atStrictHeader = .next t ∧ (t.engine == .error) = true) ∧
      (∃ t, exec (.hdrCNs 7#3 0#12) atRawHeader = .next t ∧ (t.dstate == .tag) = true) ∧
      (∃ t, exec (.tag 2#8) (decoder .tag 2 6 [0x03#8, 0xB0#8, 0x02#8]) = .next t ∧ (t.dstate == .item) = true) :=
  ⟨next_of_after (by decide), next_of_after (by decide), next_of_after (by decide), next_of_after (by decide),
    next_of_after (by decide)⟩

theorem witness_StoringTokenFrame :
    (∃ t, exec (.raw [0x41#8]) atRawByte = .next t ∧ (t.olen == 1) = true) ∧
      (∃ t, exec (.lit 0x41#8) { atOverlap with tag := 0 } = .next t ∧ (t.olen == 2) = true) ∧
      (∃ t, exec (.refO4 0#4 0#12) atOverlap = .next t ∧ (t.olen == 4) = true) ∧
      (∃ t, exec (.refO4 1#4 0#12) atOverlap = .next t ∧ (t.engine == .error) = true) ∧
      refOperands (.refO4 0#4 0#12) = some (4, 1, 3) :=
  ⟨next_of_after (by decide), next_of_after (by decide), next_of_after (by decide), next_of_after (by decide), by decide⟩

theorem witness_CommandFrame :
    (∃ t, exec (.cmdNop 0#30) (block []) = .next t ∧ (t.status == 0) = true) ∧
      (∃ t, exec (.cmdRsvd 5#30) (block []) = .next t ∧ (t.status == 0) = true) ∧
      (∃ t, exec (.cmdDecompress 1#30) (block []) = .next t ∧ (t.status == 9) = true) ∧
      (∃ t, exec (.cmdCompress 2#30) (block []) = .next t ∧ (t.status == 5) = true) :=
  ⟨next_of_after (by decide), next_of_after (by decide), next_of_after (by decide), next_of_after (by decide)⟩

theorem witness_EncoderFrame :
    atSecondItem.host = [] ∧ atSecondItem.encoding = true ∧
      (∃ t, step atSecondItem = .next t ∧ (t.epos == 5 && t.estate == .item) = true) ∧
      (∃ t, step atEmitRaw = .next t ∧ (t.olen == 3) = true) :=
  ⟨by decide, by decide, next_of_after (by decide), next_of_after (by decide)⟩

theorem witness_HostAccessFrame :
    (∃ t, step { block [0x41#8] with host := [.readReg 4] } = .next t ∧ (t.hostData == 1) = true) ∧
      (∃ t, step { block [0x41#8] with host := [.readIn 0] } = .next t ∧ (t.hostData == 0x41) = true) ∧
      (∃ t, step { block [0x41#8] with host := [.readOut 0] } = .next t ∧ (t.draws == 1) = true) ∧
      (∃ t, step { block [0x41#8] with host := [.writeReg 1 3] } = .next t ∧ (t.cfg == 1) = true) ∧
      (∃ t, step { block [0x41#8] with host := [.writeReg 4 4200] } = .next t ∧ (t.inLen == 4200) = true) ∧
      (∃ t, step { block [0x41#8] with host := [.loadIn 4199 0x42] } = .next t ∧ (t.inBuf.read 4199 == some 0x42) = true) :=
  ⟨next_of_after (by decide), next_of_after (by decide), next_of_after (by decide), next_of_after (by decide),
    next_of_after (by decide), next_of_after (by decide)⟩

theorem witness_StepKeepsBuffers :
    atOverlap.buffersWf = true ∧ (∃ t, step atOverlap = .next t ∧ (t.olen == 11) = true) :=
  ⟨by decide, next_of_after (by decide)⟩

theorem witness_StepKeepsRegisters :
    atOverlap.registersWf = true ∧ (∃ t, step atOverlap = .next t ∧ (t.olen == 11) = true) :=
  ⟨by decide, next_of_after (by decide)⟩

theorem witness_StepKeepsRunInvariant :
    (atOverlap.Inv ∧ ∃ t, step atOverlap = .next t ∧ (t.olen == 11) = true) ∧
      (atSecondItem.Inv ∧ ∃ t, step atSecondItem = .next t ∧ (t.epos == 5) = true) ∧
      ((block []).Inv ∧ ∃ t, step (block []) = .next t ∧ (t.status == 0) = true) :=
  ⟨⟨inv_atOverlap, next_of_after (by decide)⟩, ⟨inv_atSecondItem, next_of_after (by decide)⟩, inv_block_empty,
    next_of_after (by decide)⟩

/-- The first address beyond IN_CAP. -/
theorem witness_EngineNeverFaults :
    { block [] with host := [.readIn 4200] }.Inv ∧ step { block [] with host := [.readIn 4200] } = .fault .noSuchAddress :=
  ⟨inv_of_stopped (by decide) (by decide) (by decide), rfl⟩

theorem witness_IndexCoversSlice :
    atSecondItem.Inv ∧ atSecondItem.indexCovers ∧ (∃ t, step atSecondItem = .next t ∧ (t.mfIndex == [4, 3, 2, 1, 0]) = true) :=
  ⟨inv_atSecondItem, fun _ => by decide, next_of_after (by decide)⟩

theorem witness_EngineAppendsOnly :
    atOverlap.host = [] ∧ atOverlap.engine = .busy ∧ (∃ t, step atOverlap = .next t ∧ (t.olen == 11) = true) :=
  ⟨by decide, by decide, next_of_after (by decide)⟩

theorem witness_CursorsStayInBounds :
    atOverlap.Inv ∧ atOverlap.host = [] ∧ atOverlap.decoding = true ∧
      (∃ t, step atOverlap = .next t ∧ (t.dstate == .item && t.ip == 6) = true) :=
  ⟨inv_atOverlap, by decide, by decide, next_of_after (by decide)⟩

theorem witness_DecompressEnds :
    chunkBlock.Inv ∧ chunkBlock.host = [] ∧
      (∃ t, exec (.cmdDecompress 0#30) chunkBlock = .next t ∧ (t.decoding) = true) :=
  ⟨inv_block_chunk, by decide, next_of_after (by decide)⟩

theorem witness_CompressEnds :
    (block [0x41#8]).Inv ∧ (block [0x41#8]).host = [] ∧
      (∃ t, exec (.cmdCompress 0#30) (block [0x41#8]) = .next t ∧ (t.encoding) = true) :=
  ⟨inv_block_one, by decide, next_of_after (by decide)⟩

theorem witness_DecompressUndoesCompress :
    (block [0x41#8]).Inv ∧ (block [0x41#8]).host = [] ∧ (block [0x41#8]).inputIs [0x41#8] ∧
      (∃ t, exec (.cmdCompress 0#30) (block [0x41#8]) = .next t ∧
        after (core.run 5 t) (fun c => c.engine == .done && c.result == some [0x00#8, 0x30#8, 0x41#8]) = true) ∧
      chunkBlock.Inv ∧ chunkBlock.host = [] ∧
      chunkBlock.inputIs [0x00#8, 0x30#8, 0x41#8] ∧
      1 ≤ chunkBlock.outCap.toNat ∧
      (∃ v, exec (.cmdDecompress 0#30) chunkBlock = .next v ∧ v.decoding = true) :=
  ⟨inv_block_one, by decide, by unfold State.inputIs; decide,
    next_of_after (p := fun t => after (core.run 5 t) _) (by decide), inv_block_chunk, by decide,
    by unfold State.inputIs; decide, by decide, next_of_after (by decide)⟩

theorem witness_ReservedReadZero :
    8 ≤ 8 ∧ { block [] with host := [.readReg 8] }.host = .readReg 8 :: [] ∧ (block []).engine ≠ .busy ∧
      7 ∉ [0, 1, 4] ∧ (7#32 : Word).extractLsb' 0 2 = 3#2 ∧
       { block [] with host := [.writeReg 1 0xFFFFFFFF#32] }.host = .writeReg 1 0xFFFFFFFF#32 :: [] := by decide

theorem witness_HostWritesWhileBusyRefused :
    idleDecoder.engine = .busy ∧ (4199#32 : Word).toNat < idleDecoder.inCap.toNat ∧
      { decoder .hdr 0 0 [] with host := [.loadIn 4199 0] }.host = .loadIn 4199 0 :: [] := by decide

theorem witness_InLenWithinCapacity :
    (block []).engine ≠ .busy ∧ (4200#32 : Word).toNat ≤ (block []).inCap.toNat ∧
      (block []).inCap.toNat < (4201#32 : Word).toNat := by decide

/-- OUT full by one byte; one byte of storage shared, and none; one byte not loaded. -/
theorem witness_CapacityRefused :
    (atLiteralNoRoom.atLiteral = true ∧ atLiteralNoRoom.pos.toNat < 4096 ∧
        atLiteralNoRoom.outCap.toNat = atLiteralNoRoom.olen.toNat ∧
        atOverlap.ip.toNat < atOverlap.inLen.toNat) ∧
      (atRawNoRoom.atRaw 1 = true ∧ atRawByte.chunkEnd.toNat ≤ atRawByte.inLen.toNat ∧
        atRawNoRoom.olen.toNat + 1 = atRawNoRoom.outCap.toNat + 1) ∧
      (sharing.engine ≠ .busy ∧
        0 < sharing.inLen.toNat ∧
        sharing.buffersShare = true ∧
        notSharing.buffersShare = false) ∧
      (notLoaded.inBuf.wf = true ∧ notLoaded.engine ≠ .busy ∧ notLoaded.buffersShare = false ∧
        0 < notLoaded.inLen.toNat ∧ notLoaded.inBuf.read 0 = none) := by decide

/-- Room for one byte less than the copy and the chunk need. -/
theorem witness_CapacityRefused_window :
    (refOperands (.refO4 0#4 7#12) = some (4, 1, 10) ∧ atReferenceNoRoom.atRef 4 = true ∧ atReferenceNoRoom.Inv ∧
        atReferenceNoRoom.ip.toNat + 2 ≤ atReferenceNoRoom.chunkEnd.toNat ∧
        atReferenceNoRoom.ip.toNat + 2 ≤ atReferenceNoRoom.inLen.toNat ∧ 1 ≤ atReferenceNoRoom.pos.toNat ∧
        atReferenceNoRoom.pos.toNat + 10 ≤ 4096 ∧
        atReferenceNoRoom.outCap.toNat + 1 = atReferenceNoRoom.olen.toNat + 10) ∧
      (atEmitNoRoom.host = [] ∧ atEmitNoRoom.encoding = true ∧ atEmitNoRoom.estate = .emit ∧ atEmitNoRoom.Inv ∧
        atEmitNoRoom.outCap.toNat + 1 =
          atEmitNoRoom.olen.toNat + 2 + min atEmitNoRoom.sliceLen.toNat atEmitNoRoom.candLen.toNat) :=
  ⟨⟨by decide, by decide, inv_atReferenceNoRoom, by decide, by decide, by decide, by decide, by decide⟩,
    by decide, by decide, by decide, inv_atEmitNoRoom, by decide⟩

/-- A reset while a command runs. -/
theorem witness_ResetRestoresBlock :
    { atOverlap with host := [.reset, .wait] }.host = .reset :: [.wait] := rfl

theorem witness_HostReadsOfOutput :
    (doneOne.engine = .done ∧ 0 < doneOne.outLen.toNat ∧ doneOne.outBuf.read 0 = some 0x41#8 ∧
        0 < doneOne.outCap.toNat ∧ doneOne.outLen.toNat ≤ 1) ∧
      { block [] with status := 0xB#32 }.engine ≠ .done ∧ idleDecoder.engine = .busy ∧
      { decoder .hdr 0 0 [] with host := [.readReg 5] }.host = .readReg 5 :: [] ∧
      (block [0x41#8]).inBuf.read 0 = some 0x41#8 ∧ (block [0x41#8]).inBuf.read 4199 = none ∧
      (4199#32 : Word).toNat < (block [0x41#8]).inCap.toNat := by decide

end Sys2Proof.Tests
end

/-! ## The bit length of a number (R8) -/

namespace Sys2Proof

theorem bitLength_of_ne_zero {x : Nat} (hx : x ≠ 0) : bitLength x = x.log2 + 1 :=
  if_neg hx

/-- The bit length characterised by its upper bounds: the form in which proofs about widths use it. -/
theorem bitLength_le_iff {x k : Nat} : bitLength x ≤ k ↔ x < 2 ^ k := by
  by_cases hx : x = 0
  · subst hx
    simp [bitLength]
  · rw [bitLength_of_ne_zero hx, Nat.succ_le_iff, Nat.log2_lt hx]

theorem lt_two_pow_bitLength (x : Nat) : x < 2 ^ bitLength x :=
  bitLength_le_iff.mp le_rfl

/-- Settles O1: both halves of "least" are the two directions of `bitLength_le_iff`. -/
theorem bitLengthIsLeast : Obligations.BitLengthIsLeast := by
  unfold Obligations.BitLengthIsLeast
  refine ⟨fun x _ => ⟨lt_two_pow_bitLength x, fun _ => bitLength_le_iff.mpr⟩, ?_⟩
  decide

end Sys2Proof

/-! ## The host's writes and reads of CMD (R22) -/

namespace Sys2Proof.Machine

theorem whenNotBusy_of_busy {s : State} (h : s.engine = .busy) (a : Answer) :
    whenNotBusy s a = .refused .hostWriteWhileBusy :=
  if_pos h

theorem whenNotBusy_of_not_busy {s : State} (h : s.engine ≠ .busy) (a : Answer) : whenNotBusy s a = a :=
  if_neg h

theorem exec_cmdNop_of_not_busy {s : State} (h : s.engine ≠ .busy) (r : BitVec 30) : exec (.cmdNop r) s = .next s :=
  whenNotBusy_of_not_busy h (.next s)

theorem exec_cmdRsvd_of_not_busy {s : State} (h : s.engine ≠ .busy) (r : BitVec 30) : exec (.cmdRsvd r) s = .next s :=
  whenNotBusy_of_not_busy h (.next s)

/-! ### The command by OP -/

theorem decodeCmd_of_op_zero {w : Word} (h : w.extractLsb' 0 2 = 0#2) : decodeCmd w = .cmdNop (w.extractLsb' 2 30) := by
  simp [decodeCmd, h]

theorem decodeCmd_of_op_one {w : Word} (h : w.extractLsb' 0 2 = 1#2) :
    decodeCmd w = .cmdCompress (w.extractLsb' 2 30) := by
  simp [decodeCmd, h]

theorem decodeCmd_of_op_two {w : Word} (h : w.extractLsb' 0 2 = 2#2) :
    decodeCmd w = .cmdDecompress (w.extractLsb' 2 30) := by
  simp [decodeCmd, h]

theorem decodeCmd_of_op_three {w : Word} (h : w.extractLsb' 0 2 = 3#2) :
    decodeCmd w = .cmdRsvd (w.extractLsb' 2 30) := by
  simp [decodeCmd, h]

/-- Every command, whatever its OP, is guarded by the engine not being BUSY (R278). -/
theorem exec_decodeCmd_eq_whenNotBusy (w : Word) (s : State) : ∃ a, exec (decodeCmd w) s = whenNotBusy s a := by
  unfold decodeCmd
  split
  case h_1 => exact ⟨.next s, rfl⟩
  case h_2 => exact ⟨whenBuffersApart s (whenInputLoaded s (.next (startCompress s))), rfl⟩
  case h_3 => exact ⟨whenBuffersApart s (whenInputLoaded s (.next (startDecompress s))), rfl⟩
  case h_4 => exact ⟨.next s, rfl⟩

theorem exec_decodeCmd_of_busy (w : Word) {s : State} (h : s.engine = .busy) :
    exec (decodeCmd w) s = .refused .hostWriteWhileBusy := by
  obtain ⟨a, ha⟩ := exec_decodeCmd_eq_whenNotBusy w s
  rw [ha, whenNotBusy_of_busy h]

/-! ### The step that takes a register access -/

theorem step_of_writeCmd {s : State} {w : Word} {q : List HostAction} (h : s.host = .writeReg 0 w :: q) :
    step s = exec (decodeCmd w) { s with host := q } := by
  simp [step, fetch, h, fetchHost]

theorem step_of_readReg {s : State} {n : Nat} {q : List HostAction} (h : s.host = .readReg n :: q) :
    step s = .next (readRegister n { s with host := q }) := by
  simp [step, fetch, h, fetchHost]

/-- Register 0 is CMD. It has no storage, so a read gives 0, BUSY or not. -/
theorem readRegister_cmd (s : State) : readRegister 0 s = { s with hostData := 0 } := by
  simp [readRegister, giveHost, regValue]

/-- Settles O28: a pending write of CMD runs the command its OP decodes to, and every such command is guarded by BUSY. -/
theorem commandRegister : Obligations.CommandRegister := by
  unfold Obligations.CommandRegister
  refine ⟨fun s r hidle => ⟨exec_cmdNop_of_not_busy hidle r, exec_cmdRsvd_of_not_busy hidle r⟩, ?write, ?read⟩
  case write =>
    intro s w q hq
    rw [step_of_writeCmd hq]
    refine ⟨fun hbusy => exec_decodeCmd_of_busy w hbusy, fun hidle hop => ?_, fun hop => ?_, fun hop => ?_⟩
    · obtain hop | hop := hop
      · rw [decodeCmd_of_op_zero hop]
        exact exec_cmdNop_of_not_busy (s := { s with host := q }) hidle _
      · rw [decodeCmd_of_op_three hop]
        exact exec_cmdRsvd_of_not_busy (s := { s with host := q }) hidle _
    · rw [decodeCmd_of_op_one hop]
    · rw [decodeCmd_of_op_two hop]
  case read =>
    intro s q hq
    rw [step_of_readReg hq, readRegister_cmd]

end Sys2Proof.Machine

/-! ## The operands of a back-reference (R97, R98) -/

namespace Sys2Proof

theorem four_le_bfc (pos : Nat) : 4 ≤ bfc pos :=
  le_max_left 4 _

theorem bfc_le_twelve (pos : Nat) : bfc pos ≤ 12 :=
  max_le (by decide) (min_le_left 12 _)

/-- The two fields of a back-reference word fill its 16 bits. -/
theorem lengthBits_add_bfc (pos : Nat) : lengthBits pos + bfc pos = 16 :=
  Nat.sub_add_cancel ((bfc_le_twelve pos).trans (by decide))

/-- The low byte comes first, and each byte counts unsigned (R10). -/
theorem le16_toNat (b0 b1 : Byte) : (le16 b0 b1).toNat = b0.toNat + 256 * b1.toNat := by
  rw [le16, BitVec.toNat_append, ← Nat.shiftLeft_add_eq_or_of_lt b0.isLt, Nat.shiftLeft_eq]
  omega

end Sys2Proof

namespace Sys2Proof.Machine

/-- The nine forms are one split of the word, at the width of the position (R97, R100). -/
theorem refOperands_decodeRef (pos : Nat) (f : Half) :
    refOperands (decodeRef pos f) =
      some (bfc pos, displacementOf (f.extractLsb' (lengthBits pos) (bfc pos)),
        lengthOf (f.extractLsb' 0 (lengthBits pos))) := by
  have hlo := four_le_bfc pos
  have hhi := bfc_le_twelve pos
  unfold decodeRef lengthBits
  interval_cases bfc pos <;> rfl

/-- `DISP_M1` is the whole high part of the word, so no bit above it is dropped (R98). -/
theorem displacementOf_extractLsb' {f : Half} {lb ob : Nat} (h : lb + ob = 16) :
    displacementOf (f.extractLsb' lb ob) = (f.toNat >>> lb) + 1 := by
  have hfit : f.toNat >>> lb < 2 ^ ob := by
    rw [Nat.shiftRight_eq_div_pow, Nat.div_lt_iff_lt_mul (Nat.two_pow_pos lb), ← Nat.pow_add, Nat.add_comm, h]
    exact f.isLt
  rw [displacementOf, BitVec.extractLsb'_toNat, Nat.mod_eq_of_lt hfit]

theorem lengthOf_extractLsb' (f : Half) (lb : Nat) :
    lengthOf (f.extractLsb' 0 lb) = (f.toNat &&& ((1 <<< lb) - 1)) + 3 := by
  rw [lengthOf, BitVec.extractLsb'_toNat, Nat.shiftRight_zero, Nat.one_shiftLeft, Nat.and_two_pow_sub_one_eq_mod]

theorem displacementOf_le {w : Nat} (d : BitVec w) : displacementOf d ≤ 2 ^ w :=
  d.isLt

theorem lengthOf_le {w : Nat} (l : BitVec w) : lengthOf l ≤ 2 ^ w + 2 :=
  Nat.add_le_add_right l.isLt 2

/-- Settles O3: the decoder's two fields are R98's shift and mask of the word, and the ranges are the fields' widths. -/
theorem backReferenceOperands : Obligations.BackReferenceOperands := by
  unfold Obligations.BackReferenceOperands
  rintro pos f lb b0 b1 rest hf (rfl : lb = lengthBits pos)
  rw [← le16_toNat] at hf
  subst hf
  rw [← displacementOf_extractLsb' (lengthBits_add_bfc pos), ← lengthOf_extractLsb']
  exact ⟨⟨_, rfl, refOperands_decodeRef pos _⟩, Nat.succ_ne_zero _, displacementOf_le _, lengthOf_le _⟩

end Sys2Proof.Machine

/-! ## The table of `bfc` and `length_bits` (R131, R132) -/

namespace Sys2Proof

/-- The inner boundaries of the table are the powers of two: below the clamp at 12, a width of `k` bits suffices up to
position `2^k`. -/
theorem bfc_le_iff {p k : Nat} (hlo : 4 ≤ k) (hhi : k < 12) : bfc p ≤ k ↔ p ≤ 2 ^ k := by
  have hpow : 2 ^ 4 ≤ 2 ^ k := Nat.pow_le_pow_right (by decide) hlo
  have hclamp : bfc p ≤ k ↔ bitLength (max (p - 1) 1) ≤ k := by
    unfold bfc
    omega
  rw [hclamp, bitLength_le_iff]
  omega

theorem bfc_eq_four {p : Nat} (hp : p ≤ 2 ^ 4) : bfc p = 4 :=
  le_antisymm ((bfc_le_iff le_rfl (by decide)).mpr hp) (four_le_bfc p)

theorem bfc_eq_twelve {p : Nat} (hp : 2 ^ 11 < p) : bfc p = 12 :=
  le_antisymm (bfc_le_twelve p) (not_le.mp (mt (bfc_le_iff (by decide) (by decide)).mp hp.not_ge))

/-- An inner row of the table: above `2^k` and up to `2^(k+1)` the width is `k + 1`. -/
theorem bfc_eq_succ {p k : Nat} (hk : 4 ≤ k ∧ k < 11) (hlo : 2 ^ k < p) (hhi : p ≤ 2 ^ (k + 1)) : bfc p = k + 1 := by
  have hle : bfc p ≤ k + 1 := (bfc_le_iff (by omega) (by omega)).mpr hhi
  have hgt : ¬ bfc p ≤ k := mt (bfc_le_iff hk.1 (by omega)).mp hlo.not_ge
  omega

/-- A row of the table is fixed by its `offset_bits` (R131). -/
theorem tableRow_of_bfc_eq {p ob : Nat} (h : bfc p = ob) : bfc p = ob ∧ lengthBits p = 16 - ob :=
  ⟨h, congrArg (16 - ·) h⟩

theorem four_le_lengthBits (p : Nat) : 4 ≤ lengthBits p :=
  Nat.sub_le_sub_left (bfc_le_twelve p) 16

theorem lengthBits_le_twelve (p : Nat) : lengthBits p ≤ 12 :=
  Nat.sub_le_sub_left (four_le_bfc p) 16

/-- Settles O2: the first and last rows are the clamps of `bfc`, and the seven between them are `bfc_eq_succ` for the
powers 2^4 to 2^10. -/
theorem bfcFollowsTable : Obligations.BfcFollowsTable := by
  unfold Obligations.BfcFollowsTable
  intro p _
  have hrow : ∀ k, 4 ≤ k ∧ k < 11 → 2 ^ k < p → p ≤ 2 ^ (k + 1) → bfc p = k + 1 ∧ lengthBits p = 16 - (k + 1) :=
    fun _ hk hlo hhi => tableRow_of_bfc_eq (bfc_eq_succ hk hlo hhi)
  exact ⟨rfl, four_le_lengthBits p, lengthBits_le_twelve p,
    fun h => tableRow_of_bfc_eq (bfc_eq_four h),
    hrow 4 (by decide), hrow 5 (by decide), hrow 6 (by decide), hrow 7 (by decide), hrow 8 (by decide),
    hrow 9 (by decide), hrow 10 (by decide),
    fun h => tableRow_of_bfc_eq (bfc_eq_twelve h)⟩

end Sys2Proof

/-! ## Fetching and executing a token of a compressed payload (R140 to R144, R246) -/

namespace Sys2Proof.Machine

/-! ### Where the tokens stand -/

theorem decoding_iff {s : State} : s.decoding = true ↔ s.engine = .busy ∧ s.lastOp = 2#2 := by
  simp [State.decoding]

theorem atTag_iff {s : State} : s.atTag = true ↔ s.decoding = true ∧ s.dstate = .tag ∧ s.ip ≠ s.chunkEnd := by
  simp [State.atTag]

theorem atItem_iff {s : State} :
    s.atItem = true ↔ s.decoding = true ∧ s.dstate = .item ∧ s.idx.toNat < 8 ∧ s.ip ≠ s.chunkEnd := by
  simp [State.atItem]

theorem dstate_of_atItem {s : State} (h : s.atItem = true) : s.dstate = .item := by
  obtain ⟨-, hds, -⟩ := atItem_iff.mp h
  exact hds

theorem atLiteral_iff {s : State} : s.atLiteral = true ↔ s.atItem = true ∧ s.tagBit = false := by
  simp [State.atLiteral]

theorem atRef_iff {s : State} {ob : Nat} :
    s.atRef ob = true ↔ s.atItem = true ∧ s.tagBit = true ∧ bfc s.pos.toNat = ob := by
  simp [State.atRef]

/-! ### The checks, by their conditions -/

theorem byteTruncated_eq_some {s : State} (h : s.inLen.toNat ≤ s.ip.toNat) : byteTruncated s = some .inputEnded :=
  if_pos h

theorem byteTruncated_eq_none_iff {s : State} : byteTruncated s = none ↔ s.ip.toNat < s.inLen.toNat := by
  simp [byteTruncated]

theorem refTruncated_eq_straddle {s : State} (h : s.chunkEnd.toNat < s.ip.toNat + 2) :
    refTruncated s = some .straddle :=
  if_pos h

theorem refTruncated_eq_inputEnded {s : State} (hc : s.ip.toNat + 2 ≤ s.chunkEnd.toNat)
    (hi : s.inLen.toNat < s.ip.toNat + 2) : refTruncated s = some .inputEnded :=
  (if_neg hc.not_gt).trans (if_pos hi)

theorem refTruncated_eq_none_iff {s : State} :
    refTruncated s = none ↔ s.ip.toNat + 2 ≤ s.chunkEnd.toNat ∧ s.ip.toNat + 2 ≤ s.inLen.toNat := by
  unfold refTruncated
  split
  · simp; omega
  · split
    · simp; omega
    · simp; omega

theorem refMalformed_eq_farDisplacement {d l : Nat} {s : State} (h : s.pos.toNat < d) :
    refMalformed d l s = some .farDisplacement := by
  simp [refMalformed, h, Nat.ne_zero_of_lt h]

theorem refMalformed_eq_tooLong {d l : Nat} {s : State} (hd : d ≠ 0) (hw : d ≤ s.pos.toNat)
    (h : 4096 < s.pos.toNat + l) : refMalformed d l s = some .tooLong := by
  simp [refMalformed, hd, hw.not_gt, h]

theorem refMalformed_eq_none {d l : Nat} {s : State} (hd : d ≠ 0) (hw : d ≤ s.pos.toNat)
    (h : s.pos.toNat + l ≤ 4096) : refMalformed d l s = none := by
  simp [refMalformed, hd, hw.not_gt, h.not_gt]

/-- Inside a compressed payload the error entry records `POS` (R29, R247). -/
theorem takeError_eq_failed {s : State} (h : s.dstate = .tag ∨ s.dstate = .item) (c : Cause) :
    takeError c s = failed (errWord c) (s.pos.setWidth 32) s := by
  simp [takeError, failed, h]

/-! ### The fetch of a running decoder -/

theorem step_of_fetch_other {s : State} {a : Answer} (h : fetch s = .other a) : step s = a := by
  simp [step, h]

theorem step_of_fetch_instr {s t : State} {i : Instr} (h : fetch s = .instr i t) : step s = exec i t := by
  simp [step, h]

theorem fetch_of_decoding {s : State} (hh : s.host = []) (hd : s.decoding = true) : fetch s = fetchDecoder s := by
  obtain ⟨hbusy, hop⟩ := decoding_iff.mp hd
  simp [fetch, hh, fetchEngine, hbusy, hop]

theorem fetch_of_tag {s : State} (hh : s.host = []) (hd : s.decoding = true) (ht : s.dstate = .tag) :
    fetch s = fetchTag s := by
  simp [fetch_of_decoding hh hd, fetchDecoder, ht]

theorem fetch_of_item {s : State} (hh : s.host = []) (hd : s.decoding = true) (ht : s.dstate = .item) :
    fetch s = fetchItem s := by
  simp [fetch_of_decoding hh hd, fetchDecoder, ht]

theorem fetchToken_eq_instr {s : State} {p : Place} {n : Nat} {bytes rest : List Byte} {i : Instr}
    (hin : s.ip.toNat + n ≤ s.inLen.toNat) (hb : s.inBuf.readRun s.ip.toNat n = some bytes)
    (hdec : decode p bytes = .token i rest) : fetchToken p n s = .instr i s := by
  simp [fetchToken, hin.not_gt, hb, hdec]

theorem fetch_of_atTag {s : State} (hh : s.host = []) (h : s.atTag = true) :
    fetch s = fetchUnless (byteTruncated s) s (fetchToken .tag 1 s) := by
  obtain ⟨hd, ht, hne⟩ := atTag_iff.mp h
  rw [fetch_of_tag hh hd ht, fetchTag, if_neg hne]

/-- At an item the group is not full and the budget not spent, so that the tag bit decides (R141). -/
theorem fetch_of_atItem {s : State} (hh : s.host = []) (h : s.atItem = true) :
    fetch s = if s.tagBit then fetchUnless (refTruncated s) s (fetchToken (.reference s.pos.toNat) 2 s)
      else fetchUnless (byteTruncated s) s (fetchToken .literal 1 s) := by
  obtain ⟨hd, ht, hidx, hne⟩ := atItem_iff.mp h
  have h8 : s.idx ≠ 8#4 := fun e => by simp [e] at hidx
  rw [fetch_of_item hh hd ht, fetchItem, if_neg h8, if_neg hne, if_neg (by omega)]

/-! ### The tokens' meanings in their places -/

theorem exec_tag_of_atTag {s : State} (h : s.atTag = true) (t : Byte) :
    exec (.tag t) s =
      checkedBy (byteTruncated s) s (.next { s with tag := t, ip := s.ip + 1, idx := 0, dstate := .item }) := by
  simp [exec, execTag, h]

theorem exec_lit_of_atLiteral {s : State} (h : s.atLiteral = true) (b : Byte) :
    exec (.lit b) s =
      checkedBy (byteTruncated s) s (checkedBy (litMalformed s) s
        (andThen (append b s) fun t => .next { t with pos := t.pos + 1, ip := t.ip + 1, idx := t.idx + 1 })) := by
  simp [exec, execLit, h]

/-- The nine forms share one meaning (R143). -/
theorem exec_of_refOperands {i : Instr} {ob d l : Nat} (hi : refOperands i = some (ob, d, l)) (s : State) :
    exec i s = backReference ob d l s := by
  cases i <;> cases hi <;> rfl

theorem ne_zero_of_refOperands {i : Instr} {ob d l : Nat} (hi : refOperands i = some (ob, d, l)) : d ≠ 0 := by
  cases i <;> cases hi <;> exact Nat.succ_ne_zero _

theorem exec_of_atRef {s : State} {i : Instr} {ob d l : Nat} (hi : refOperands i = some (ob, d, l))
    (h : s.atRef ob = true) :
    exec i s =
      checkedBy (refTruncated s) s (checkedBy (refMalformed d l s) s
        (andThen (copyBytes d l s) fun t =>
          .next { t with pos := t.pos + BitVec.ofNat 13 l, ip := t.ip + 2, idx := t.idx + 1 })) := by
  rw [exec_of_refOperands hi, backReference, h, inPlace_true]

/-! ### The step is the token's meaning

The fetch and the meaning make the same check of the token's bytes. So where the bytes are missing the step is the
meaning of any operand, and where they are there it is that of the operand they hold. -/

theorem step_eq_exec_of_checked {s : State} {c : Option Cause} {f : Fetched} {i : Instr} {a : Answer}
    (hf : fetch s = fetchUnless c s f) (he : exec i s = checkedBy c s a) (ht : c = none → f = .instr i s) :
    step s = exec i s := by
  cases c with
  | some cause => rw [he, step_of_fetch_other hf, checkedBy_some]
  | none => exact step_of_fetch_instr (hf.trans (ht rfl))

theorem step_eq_exec_tag {s : State} {t : Byte} (hh : s.host = []) (h : s.atTag = true)
    (hb : s.ip.toNat < s.inLen.toNat → s.inBuf.readRun s.ip.toNat 1 = some [t]) : step s = exec (.tag t) s :=
  step_eq_exec_of_checked (fetch_of_atTag hh h) (exec_tag_of_atTag h t) fun hc =>
    have hin := byteTruncated_eq_none_iff.mp hc
    fetchToken_eq_instr hin (hb hin) rfl

theorem step_eq_exec_lit {s : State} {b : Byte} (hh : s.host = []) (h : s.atLiteral = true)
    (hb : s.ip.toNat < s.inLen.toNat → s.inBuf.readRun s.ip.toNat 1 = some [b]) : step s = exec (.lit b) s := by
  obtain ⟨hitem, hbit⟩ := atLiteral_iff.mp h
  refine step_eq_exec_of_checked ((fetch_of_atItem hh hitem).trans (if_neg (by simp [hbit])))
    (exec_lit_of_atLiteral h b) fun hc => ?_
  have hin := byteTruncated_eq_none_iff.mp hc
  exact fetchToken_eq_instr hin (hb hin) rfl

theorem step_eq_exec_ref {s : State} {i : Instr} {ob d l : Nat} (hi : refOperands i = some (ob, d, l))
    (hh : s.host = []) (h : s.atRef ob = true)
    (hb : s.ip.toNat + 2 ≤ s.chunkEnd.toNat → s.ip.toNat + 2 ≤ s.inLen.toNat →
      ∃ b0 b1, s.inBuf.readRun s.ip.toNat 2 = some [b0, b1] ∧ decodeRef s.pos.toNat (le16 b0 b1) = i) :
    step s = exec i s := by
  obtain ⟨hitem, hbit, -⟩ := atRef_iff.mp h
  refine step_eq_exec_of_checked ((fetch_of_atItem hh hitem).trans (if_pos hbit)) (exec_of_atRef hi h) fun hc => ?_
  obtain ⟨hce, hin⟩ := refTruncated_eq_none_iff.mp hc
  obtain ⟨b0, b1, hrun, rfl⟩ := hb hce hin
  exact fetchToken_eq_instr hin hrun rfl

/-! ### The tag step (R140) -/

theorem exec_tag_truncated {s : State} (h : s.atTag = true) (hin : s.inLen.toNat ≤ s.ip.toNat) (t : Byte) :
    exec (.tag t) s = .next (failed 0x31#32 (s.pos.setWidth 32) s) := by
  obtain ⟨-, hds, -⟩ := atTag_iff.mp h
  rw [exec_tag_of_atTag h, byteTruncated_eq_some hin, checkedBy_some, takeError_eq_failed (.inl hds)]
  rfl

/-- Settles O17: a spent budget is the fetch's own step, and any other tag step is the meaning of TAG. -/
theorem tagStep : Obligations.TagStep := by
  unfold Obligations.TagStep
  intro s t hd hds
  have hat : s.ip ≠ s.chunkEnd → s.atTag = true := fun hne => atTag_iff.mpr ⟨hd, hds, hne⟩
  refine ⟨fun hh hspent => ?spent, fun hne hin => ?truncated, fun hne hin => ?opened⟩
  case spent =>
    exact step_of_fetch_other ((fetch_of_tag hh hd hds).trans (if_pos hspent))
  case truncated =>
    have hexec := exec_tag_truncated (hat hne) hin t
    exact ⟨fun hh => (step_eq_exec_tag hh (hat hne) fun hlt => absurd hlt hin.not_gt).trans hexec, hexec⟩
  case opened =>
    refine ⟨fun hh hb => step_eq_exec_tag hh (hat hne) fun _ => hb, ?_⟩
    rw [exec_tag_of_atTag (hat hne), byteTruncated_eq_none_iff.mpr hin, checkedBy_none]

/-! ### Item dispatch (R141) -/

/-- Settles O18: the two steps that consume nothing are the fetch's first tests; past them the tag bit fixes the place,
and the step there is the token's meaning. -/
theorem itemDispatch : Obligations.ItemDispatch := by
  unfold Obligations.ItemDispatch
  intro s hh hd hds hidx
  have hfetch := fetch_of_item hh hd hds
  have hat : s.idx ≠ 8#4 → s.ip ≠ s.chunkEnd → s.atItem = true := fun h8 hne =>
    atItem_iff.mpr ⟨hd, hds, lt_of_le_of_ne hidx fun e => h8 (BitVec.eq_of_toNat_eq e), hne⟩
  refine ⟨fun h8 => ?full, fun h8 hspent => ?spent, fun h8 hne hbit b hb => ?literal,
    fun h8 hne hbit b0 b1 hb => ?ref⟩
  case full =>
    exact step_of_fetch_other (hfetch.trans (if_pos h8))
  case spent =>
    exact step_of_fetch_other (hfetch.trans ((if_neg h8).trans (if_pos hspent)))
  case literal =>
    exact step_eq_exec_lit hh (atLiteral_iff.mpr ⟨hat h8 hne, hbit⟩) hb
  case ref =>
    exact step_eq_exec_ref (refOperands_decodeRef _ _) hh (atRef_iff.mpr ⟨hat h8 hne, hbit, rfl⟩)
      fun hce hin => ⟨b0, b1, hb hce hin, rfl⟩

/-! ### The literal (R142) -/

theorem exec_lit_truncated {s : State} (h : s.atLiteral = true) (hin : s.inLen.toNat ≤ s.ip.toNat) (b : Byte) :
    exec (.lit b) s = .next (failed 0x31#32 (s.pos.setWidth 32) s) := by
  have hds := dstate_of_atItem (atLiteral_iff.mp h).1
  rw [exec_lit_of_atLiteral h, byteTruncated_eq_some hin, checkedBy_some, takeError_eq_failed (.inr hds)]
  rfl

theorem exec_lit_chunkFull {s : State} (h : s.atLiteral = true) (hin : s.ip.toNat < s.inLen.toNat)
    (hpos : 4096 ≤ s.pos.toNat) (b : Byte) :
    exec (.lit b) s = .next (failed 0x43#32 (s.pos.setWidth 32) s) := by
  have hds := dstate_of_atItem (atLiteral_iff.mp h).1
  rw [exec_lit_of_atLiteral h, byteTruncated_eq_none_iff.mpr hin, checkedBy_none, litMalformed, if_pos hpos,
    checkedBy_some, takeError_eq_failed (.inr hds)]
  rfl

theorem append_of_lt {s : State} (h : s.olen.toNat < s.outCap.toNat) (b : Byte) : append b s = .next (putOut b s) :=
  if_neg h.not_ge

theorem exec_lit_appends {s : State} (h : s.atLiteral = true) (hin : s.ip.toNat < s.inLen.toNat)
    (hpos : s.pos.toNat < 4096) (hroom : s.olen.toNat < s.outCap.toNat) (b : Byte) :
    exec (.lit b) s = .next { putOut b s with pos := s.pos + 1, ip := s.ip + 1, idx := s.idx + 1 } := by
  rw [exec_lit_of_atLiteral h, byteTruncated_eq_none_iff.mpr hin, checkedBy_none, litMalformed, if_neg hpos.not_ge,
    checkedBy_none, append_of_lt hroom]
  rfl

/-- Settles O19: the step is the meaning of LIT, whose three outcomes are the lemmas above. -/
theorem literalStep : Obligations.LiteralStep := by
  unfold Obligations.LiteralStep
  intro s b h
  refine ⟨fun hin => ?truncated, fun hin => ?there⟩
  case truncated =>
    have hexec := exec_lit_truncated h hin b
    exact ⟨fun hh => (step_eq_exec_lit hh h fun hlt => absurd hlt hin.not_gt).trans hexec, hexec⟩
  case there =>
    exact ⟨fun hh hb => step_eq_exec_lit hh h fun _ => hb, fun hpos => exec_lit_chunkFull h hin hpos b,
      fun hpos hroom => exec_lit_appends h hin hpos hroom b⟩

end Sys2Proof.Machine

/-! ## The back-reference copy (R143, R144) -/

namespace Sys2Proof.Machine

/-- One turn of the copy where its source has a value and its target lies below OUT_CAP. -/
theorem copyBytes_succ_of_read {d k : Nat} {s : State} {b : Byte} (hd : d ≤ s.olen.toNat)
    (hb : s.outBuf.read (s.olen.toNat - d) = some b) (hroom : s.olen.toNat < s.outCap.toNat) :
    copyBytes d (k + 1) s = copyBytes d k (putOut b s) := by
  rw [copyBytes, if_neg hd.not_gt, hb]
  simp [append_of_lt hroom]

/-- The byte put extends the window by one, so its last `d` bytes have values again. -/
theorem listed_putOut {s : State} {d : Nat} (hd : d ≤ s.olen.toNat)
    (hw : s.outBuf.listed (s.olen.toNat - d) d) (b : Byte) :
    (putOut b s).outBuf.listed (s.olen.toNat + 1 - d) d := by
  intro k hk
  rw [putOut_outBuf, Memory.read_write]
  split
  · rfl
  · have hk' : k + 1 < d := by omega
    have hold := hw (k + 1) hk'
    rwa [show s.olen.toNat - d + (k + 1) = s.olen.toNat + 1 - d + k by omega] at hold

/-- The copy completes where the window has values and the result fits below OUT_CAP (R78, R144). -/
theorem copyBytes_succeeds {d l : Nat} {s : State} (hd0 : 1 ≤ d) (hd : d ≤ s.olen.toNat)
    (hw : s.outBuf.listed (s.olen.toNat - d) d) (hroom : s.olen.toNat + l ≤ s.outCap.toNat) :
    ∃ t, copyBytes d l s = .next t := by
  induction l generalizing s with
  | zero => exact ⟨s, rfl⟩
  | succ k ih =>
    have hlt : s.olen.toNat < s.outCap.toNat := by omega
    obtain ⟨b, hb⟩ := Option.isSome_iff_exists.mp (hw 0 hd0)
    rw [copyBytes_succ_of_read hd hb hlt]
    have hlen := putOut_olen_toNat b s hlt
    refine ih ?_ ?_ ?_ <;> rw [hlen]
    · omega
    · exact listed_putOut hd hw b
    · rw [putOut_outCap]; omega

/-- Each byte of the copy is the one `d` places before it in the result, which the same copy may have written
(R144, R277). -/
theorem copyBytes_read_eq_back {d l : Nat} {s t : State} (h : copyBytes d l s = .next t) (hd0 : 1 ≤ d) {k : Nat}
    (hk : k < l) : t.outBuf.read (s.olen.toNat + k) = t.outBuf.read (s.olen.toNat + k - d) := by
  induction l generalizing s k with
  | zero => omega
  | succ l ih =>
    obtain ⟨hd, b, hb, hlt, hrest⟩ := copyBytes_succ_eq_next h
    have hlen := putOut_olen_toNat b s hlt
    cases k with
    | zero =>
      obtain ⟨-, -, hframe⟩ := copyBytes_eq_next hrest
      have hnew : t.outBuf.read s.olen.toNat = some b := by
        rw [hframe _ (by omega), putOut_outBuf, Memory.read_write_same]
      have hsrc : t.outBuf.read (s.olen.toNat - d) = some b := by
        rw [hframe _ (by omega), putOut_outBuf, Memory.read_write_other _ _ (by omega), hb]
      rw [Nat.add_zero, hnew, hsrc]
    | succ k =>
      have hnext := ih hrest (k := k) (by omega)
      rwa [hlen, Nat.add_assoc, Nat.add_comm 1 k] at hnext

/-- The copy repeats the last `d` bytes of the window with period `d` (R144). -/
theorem copyBytes_read_eq_window {d l : Nat} {s t : State} (h : copyBytes d l s = .next t) (hd0 : 1 ≤ d)
    (hd : d ≤ s.olen.toNat) {k : Nat} (hk : k < l) :
    t.outBuf.read (s.olen.toNat + k) = s.outBuf.read (s.olen.toNat - d + k % d) := by
  obtain ⟨-, -, hframe⟩ := copyBytes_eq_next h
  induction k using Nat.strong_induction_on with
  | h k ih =>
    rw [copyBytes_read_eq_back h hd0 hk]
    by_cases hkd : k < d
    · rw [Nat.mod_eq_of_lt hkd, hframe _ (by omega), Nat.sub_add_comm hd]
    · have hback := ih (k - d) (by omega) (by omega)
      rwa [← Nat.add_sub_assoc (not_lt.mp hkd), ← Nat.mod_eq_sub_mod (not_lt.mp hkd)] at hback

/-! ### The back-reference (R143) -/

/-- The error entry at an item: the check that fails first gives ERR (R247). -/
theorem exec_ref_truncated {s : State} {i : Instr} {ob d l : Nat} {c : Cause}
    (hi : refOperands i = some (ob, d, l)) (h : s.atRef ob = true) (hc : refTruncated s = some c) :
    exec i s = .next (failed (errWord c) (s.pos.setWidth 32) s) := by
  have hds := dstate_of_atItem (atRef_iff.mp h).1
  rw [exec_of_atRef hi h, hc, checkedBy_some, takeError_eq_failed (.inr hds)]

theorem step_ref_truncated {s : State} {i : Instr} {ob d l : Nat} {c : Cause}
    (hi : refOperands i = some (ob, d, l)) (hh : s.host = []) (h : s.atRef ob = true) (hc : refTruncated s = some c) :
    step s = .next (failed (errWord c) (s.pos.setWidth 32) s) := by
  rw [step_eq_exec_ref hi hh h fun hce hin => ?_, exec_ref_truncated hi h hc]
  rw [refTruncated_eq_none_iff.mpr ⟨hce, hin⟩] at hc
  cases hc

theorem exec_ref_malformed {s : State} {i : Instr} {ob d l : Nat} {c : Cause}
    (hi : refOperands i = some (ob, d, l)) (h : s.atRef ob = true) (ht : refTruncated s = none)
    (hc : refMalformed d l s = some c) : exec i s = .next (failed (errWord c) (s.pos.setWidth 32) s) := by
  have hds := dstate_of_atItem (atRef_iff.mp h).1
  rw [exec_of_atRef hi h, ht, checkedBy_none, hc, checkedBy_some, takeError_eq_failed (.inr hds)]

/-- What the run's invariant says of an item: OUT holds the output so far, whose last `POS` bytes are the window
(R36, R63). -/
theorem window_of_atItem {s : State} (hinv : s.Inv) (h : s.atItem = true) :
    s.olen.toNat = s.outBase.toNat + s.pos.toNat ∧ s.outBuf.listed 0 s.olen.toNat := by
  obtain ⟨hd, hds, -⟩ := atItem_iff.mp h
  obtain ⟨-, -, hdec, -⟩ := hinv
  obtain ⟨-, -, -, hlisted, hstate⟩ := hdec hd
  simp only [hds] at hstate
  obtain ⟨⟨-, -, hwin⟩, -⟩ := hstate
  exact ⟨hwin, hlisted⟩

theorem listed_last {m : Memory} {d n : Nat} (hd : d ≤ n) (h : m.listed 0 n) : m.listed (n - d) d := fun k hk => by
  rw [← Nat.zero_add (n - d), Nat.add_assoc]
  exact h _ (by omega)

/-- A legal back-reference is the copy, with the cursors advanced after it. -/
theorem exec_ref_of_copyBytes {s t : State} {i : Instr} {ob d l : Nat} (hi : refOperands i = some (ob, d, l))
    (h : s.atRef ob = true) (ht : refTruncated s = none) (hm : refMalformed d l s = none)
    (hcopy : copyBytes d l s = .next t) :
    exec i s = .next { t with pos := s.pos + BitVec.ofNat 13 l, ip := s.ip + 2, idx := s.idx + 1 } := by
  rw [exec_of_atRef hi h, ht, hm, hcopy]
  obtain ⟨hframe, -⟩ := copyBytes_eq_next hcopy
  rw [hframe]
  rfl

/-- Settles O20: the checks are those of the fetch and of the meaning, each by the condition that raises it; a legal
reference is the copy, which the invariant's window lets complete. -/
theorem backReferenceStep : Obligations.BackReferenceStep := by
  unfold Obligations.BackReferenceStep
  intro s i ob d l hi h
  obtain ⟨hitem, -, hbfc⟩ := atRef_iff.mp h
  have hd0 := ne_zero_of_refOperands hi
  refine ⟨hd0, hbfc, fun hh hc => step_ref_truncated hi hh h (refTruncated_eq_straddle hc),
    fun hh hc hin => step_ref_truncated hi hh h (refTruncated_eq_inputEnded hc hin),
    fun hc => exec_ref_truncated hi h (refTruncated_eq_straddle hc),
    fun hc hin => exec_ref_truncated hi h (refTruncated_eq_inputEnded hc hin), fun hc hin => ?there⟩
  have ht : refTruncated s = none := refTruncated_eq_none_iff.mpr ⟨hc, hin⟩
  refine ⟨fun hh b0 b1 hb hdec => step_eq_exec_ref hi hh h fun _ _ => ⟨b0, b1, hb, hdec⟩,
    fun hfar => exec_ref_malformed hi h ht (refMalformed_eq_farDisplacement hfar),
    fun hwin hlong => exec_ref_malformed hi h ht (refMalformed_eq_tooLong hd0 hwin hlong),
    fun hwin hfits hroom hinv => ?legal⟩
  obtain ⟨hbase, hlisted⟩ := window_of_atItem hinv hitem
  have hd1 : 1 ≤ d := Nat.one_le_iff_ne_zero.mpr hd0
  have hdo : d ≤ s.olen.toNat := by omega
  obtain ⟨t, hcopy⟩ := copyBytes_succeeds hd1 hdo (listed_last hdo hlisted) hroom
  obtain ⟨hstate, -, hframe⟩ := copyBytes_eq_next hcopy
  refine ⟨_, exec_ref_of_copyBytes hi h ht (refMalformed_eq_none hd0 hwin hfits) hcopy, ?_, ?_⟩
  · rw [hstate]
  · rw [← hbase]
    exact ⟨fun k hk => copyBytes_read_eq_window hcopy hd1 hdo hk, fun k hk => copyBytes_read_eq_back hcopy hd1 hk,
      hframe⟩

end Sys2Proof.Machine

/-! ## Packing one item into CAND (R150) -/

namespace Sys2Proof.Machine

/-! ### The bytes of a 16-bit field (R10) -/

theorem loByte_eq_ofNat (h : Half) : loByte h = BitVec.ofNat 8 h.toNat := by
  apply BitVec.eq_of_toNat_eq
  simp [loByte]

theorem hiByte_eq_ofNat (h : Half) : hiByte h = BitVec.ofNat 8 (h.toNat / 256) := by
  apply BitVec.eq_of_toNat_eq
  simp [hiByte, Nat.shiftRight_eq_div_pow]

/-! ### What packing keeps -/

/-- The frame of every packing operation: only CAND and the three registers of R43 may differ. -/
def OnlyCandidate (s t : State) : Prop :=
  t = { s with cand := t.cand, candLen := t.candLen, etagAt := t.etagAt, eidx := t.eidx }

theorem OnlyCandidate.trans {s t u : State} (hst : OnlyCandidate s t) (htu : OnlyCandidate t u) :
    OnlyCandidate s u := by
  unfold OnlyCandidate at *
  rw [htu, hst]

/-- A group is open in `t`: its tag byte `old` lies below the next free byte of CAND, and `n` is the next item's
number. -/
structure GroupOpen (tagAt start n : Nat) (old : Byte) (t : State) : Prop where
  etagAt : t.etagAt.toNat = tagAt
  candLen : t.candLen.toNat = start
  eidx : t.eidx.toNat = n
  tag : t.cand.read tagAt = some old
  below : tagAt < start

/-! ### The packing operations where CAND has room -/

/-- A push below the 4608 bytes of CAND (R43). -/
theorem pushCand_of_lt {s : State} (h : s.candLen.toNat < 4608) (b : Byte) :
    pushCand b s = .next { s with cand := s.cand.write s.candLen.toNat b, candLen := s.candLen + 1 } :=
  if_neg h.not_ge

/-- CAND_LEN counts a byte of CAND without wrap-around (R43). -/
theorem candLen_add_one_toNat {s : State} (h : s.candLen.toNat < 4608) :
    (s.candLen + 1).toNat = s.candLen.toNat + 1 :=
  BitVec.toNat_add_of_lt (by change s.candLen.toNat + 1 < 2 ^ 13; omega)

theorem setTagBit_of_read {s : State} {v : Byte} (h : s.cand.read s.etagAt.toNat = some v) :
    setTagBit s = .next { s with cand := s.cand.write s.etagAt.toNat (v ||| (1#8 <<< s.eidx.toNat)) } := by
  simp [setTagBit, h]

/-! ### Opening a group -/

theorem openGroup_of_closed {s : State} (h : s.eidx = 8#4) (hroom : s.candLen.toNat < 4608) :
    openGroup s = .next { s with
      cand := s.cand.write s.candLen.toNat 0
      candLen := s.candLen + 1
      etagAt := s.candLen
      eidx := 0 } := by
  rw [openGroup, if_pos h, pushCand_of_lt (s := { s with etagAt := s.candLen }) hroom]
  rfl

theorem openGroup_of_open {s : State} (h : s.eidx ≠ 8#4) : openGroup s = .next s :=
  if_neg h

/-- After `openGroup` a group is open, a new one with an empty tag byte where none was. -/
theorem openGroup_opens {s : State} {tagAt start n : Nat} {old : Byte}
    (htagAt : tagAt = if s.eidx = 8#4 then s.candLen.toNat else s.etagAt.toNat)
    (hstart : start = if s.eidx = 8#4 then s.candLen.toNat + 1 else s.candLen.toNat)
    (hn : n = if s.eidx = 8#4 then 0 else s.eidx.toNat) (hroom : s.eidx = 8#4 → s.candLen.toNat < 4608)
    (hnew : s.eidx = 8#4 → old = 0)
    (hopen : s.eidx ≠ 8#4 → s.etagAt.toNat < s.candLen.toNat ∧ s.cand.read s.etagAt.toNat = some old) :
    ∃ t, openGroup s = .next t ∧ OnlyCandidate s t ∧ GroupOpen tagAt start n old t ∧
      ∀ a, a ≠ tagAt → t.cand.read a = s.cand.read a := by
  by_cases h : s.eidx = 8#4
  · rw [if_pos h] at htagAt hstart hn
    subst htagAt hstart hn
    obtain rfl := hnew h
    refine ⟨_, openGroup_of_closed h (hroom h), rfl, ?_, fun a ha => Memory.read_write_other _ _ ha⟩
    exact ⟨rfl, candLen_add_one_toNat (hroom h), rfl, Memory.read_write_same _ _ _, Nat.lt_succ_self _⟩
  · rw [if_neg h] at htagAt hstart hn
    subst htagAt hstart hn
    obtain ⟨hbelow, htag⟩ := hopen h
    exact ⟨s, openGroup_of_open h, rfl, ⟨rfl, rfl, rfl, htag, hbelow⟩, fun _ _ => rfl⟩

/-! ### The item's bytes in an open group -/

theorem packItem_lit {tagAt start n : Nat} {old : Byte} {t : State} (hg : GroupOpen tagAt start n old t)
    (hroom : start < 4608) (b : Byte) :
    packItem (.lit b) t = .next { t with cand := t.cand.write start b, candLen := t.candLen + 1 } := by
  obtain ⟨-, rfl, -, -, -⟩ := hg
  exact pushCand_of_lt hroom b

theorem packItem_ref {tagAt start n : Nat} {old : Byte} {t : State} (hg : GroupOpen tagAt start n old t)
    (hroom : start + 1 < 4608) (p d l : Nat) :
    packItem (.ref p d l) t = .next { t with
      cand := ((t.cand.write tagAt (old ||| (1#8 <<< n))).write start (loByte (refWord p d l))).write (start + 1)
        (hiByte (refWord p d l))
      candLen := t.candLen + 1 + 1 } := by
  obtain ⟨rfl, rfl, rfl, htag, -⟩ := hg
  have hlt : t.candLen.toNat < 4608 := by omega
  have hnext := candLen_add_one_toNat hlt
  rw [packItem, setTagBit_of_read htag, andThen_next, pushCand_of_lt, andThen_next, pushCand_of_lt]
  · simp only [hnext]
  · exact hnext.trans_lt hroom
  · exact hlt

theorem addItem_of_packItem {s t u : State} {it : Item} (hopen : openGroup s = .next t)
    (hpack : packItem it t = .next u) : addItem it s = .next { u with eidx := u.eidx + 1 } := by
  simp [addItem, hopen, hpack]

theorem GroupOpen.eidx_add_one {tagAt start n : Nat} {old : Byte} {t : State} (hg : GroupOpen tagAt start n old t) :
    t.eidx + 1 = BitVec.ofNat 4 (n + 1) := by
  rw [← hg.eidx]
  apply BitVec.eq_of_toNat_eq
  simp

/-- Settles O37: `openGroup` leaves a group open at the stated addresses, and the item's bytes go where that group
ends. -/
theorem itemPacking : Obligations.ItemPacking := by
  unfold Obligations.ItemPacking
  intro s it tagAt start n size old hsize hroom htagAt hstart hn hnew hold
  have hsize1 : 1 ≤ size := by cases it <;> simp [hsize]
  have hopenRoom : s.eidx = 8#4 → s.candLen.toNat < 4608 := fun h => by rw [if_pos h] at hstart; omega
  obtain ⟨t, hopen, hkeep, hg, hframe⟩ := openGroup_opens htagAt hstart hn hopenRoom hnew hold
  have hlen : t.candLen.toNat < 4608 := by rw [hg.candLen]; omega
  have hlen1 : (t.candLen + 1).toNat = start + 1 := by rw [candLen_add_one_toNat hlen, hg.candLen]
  have hbelow := hg.below
  cases it with
  | lit b =>
    refine ⟨_, addItem_of_packItem hopen (packItem_lit hg (by omega) b), hkeep.trans rfl, hg.etagAt,
      hg.eidx_add_one, hlen1, Memory.read_write_same _ _ _, ?_, fun a htag ha => ?_⟩
    · rw [Memory.read_write_other _ _ hbelow.ne, hg.tag]
    · rw [Memory.read_write_other _ _ ha, hframe a htag]
  | ref p d l =>
    have hsize2 : size = 2 := hsize
    refine ⟨_, addItem_of_packItem hopen (packItem_ref hg (by omega) p d l), hkeep.trans rfl, hg.etagAt,
      hg.eidx_add_one, ?_, ?_, ?_, rfl, ?_, fun a htag ha ha1 => ?_⟩
    · rw [candLen_add_one_toNat (s := { t with candLen := t.candLen + 1 }) (by simp only [hlen1]; omega), hlen1]
    · rw [Memory.read_write_other _ _ (by omega), Memory.read_write_same, loByte_eq_ofNat]
    · rw [Memory.read_write_same, hiByte_eq_ofNat]
    · rw [Memory.read_write_other _ _ (by omega), Memory.read_write_other _ _ hbelow.ne, Memory.read_write_same]
    · rw [Memory.read_write_other _ _ ha1, Memory.read_write_other _ _ ha, Memory.read_write_other _ _ htag,
        hframe a htag]

end Sys2Proof.Machine

/-! ## Chunk headers and raw payloads (R171 to R176) -/

namespace Sys2Proof.Machine

/-! ### Where the tokens stand, and their fetch -/

theorem atHeader_iff {s : State} :
    s.atHeader = true ↔ s.decoding = true ∧ s.dstate = .hdr ∧ s.ip.toNat + 2 ≤ s.inLen.toNat := by
  simp [State.atHeader]

theorem atRaw_iff {s : State} {n : Nat} :
    s.atRaw n = true ↔ s.decoding = true ∧ s.dstate = .raw ∧ n = s.size.toNat := by
  simp [State.atRaw]

theorem fetch_of_hdr {s : State} (hh : s.host = []) (hd : s.decoding = true) (hds : s.dstate = .hdr) :
    fetch s = fetchHeader s := by
  simp [fetch_of_decoding hh hd, fetchDecoder, hds]

/-- With two bytes of input left neither the end of the stream nor a lone byte stands in the header's way
(R171, R172). -/
theorem fetch_of_atHeader {s : State} (hh : s.host = []) (h : s.atHeader = true) :
    fetch s = fetchToken .header 2 s := by
  obtain ⟨hd, hds, hin⟩ := atHeader_iff.mp h
  rw [fetch_of_hdr hh hd hds, fetchHeader, if_neg (by omega), if_neg (by omega)]

theorem fetch_of_atRaw {s : State} {n : Nat} (hh : s.host = []) (h : s.atRaw n = true) :
    fetch s = fetchUnless (rawTruncated s) s (fetchToken (.raw n) n s) := by
  obtain ⟨hd, hds, rfl⟩ := atRaw_iff.mp h
  simp [fetch_of_decoding hh hd, fetchDecoder, hds, fetchRaw]

theorem step_eq_exec_header {s : State} {b0 b1 : Byte} (hh : s.host = []) (h : s.atHeader = true)
    (hb : s.inBuf.readRun s.ip.toNat 2 = some [b0, b1]) : step s = exec (decodeHeader (le16 b0 b1)) s := by
  obtain ⟨-, -, hin⟩ := atHeader_iff.mp h
  exact step_of_fetch_instr ((fetch_of_atHeader hh h).trans (fetchToken_eq_instr hin hb rfl))

/-- Outside a compressed payload the error entry records 0 in FAULT_POS (R29, R247). -/
theorem takeError_eq_failed_zero {s : State} (h : s.dstate = .hdr ∨ s.dstate = .raw) (c : Cause) :
    takeError c s = failed (errWord c) 0#32 s := by
  obtain h | h := h <;> simp [takeError, failed, h]

/-! ### The end of the input (R171, R172) -/

theorem step_of_inputEnd {s : State} (hh : s.host = []) (hd : s.decoding = true) (hds : s.dstate = .hdr)
    (hend : s.ip.toNat = s.inLen.toNat) : step s = .next (finishDecompress s) :=
  step_of_fetch_other ((fetch_of_hdr hh hd hds).trans (if_pos hend))

theorem step_of_loneByte {s : State} (hh : s.host = []) (hd : s.decoding = true) (hds : s.dstate = .hdr)
    (hlone : s.ip.toNat + 1 = s.inLen.toNat) : step s = .next (takeError .loneByte s) :=
  step_of_fetch_other ((fetch_of_hdr hh hd hds).trans ((if_neg (by omega)).trans (if_pos hlone)))

/-- Settles O12: both are the fetch's own steps, which read no token. -/
theorem endOfInputAtHeader : Obligations.EndOfInputAtHeader := by
  unfold Obligations.EndOfInputAtHeader
  intro s hh hd hds
  refine ⟨fun hend => step_of_inputEnd hh hd hds hend, fun hlone => ?_⟩
  rw [step_of_loneByte hh hd hds hlone, takeError_eq_failed_zero (.inl hds)]
  rfl

/-! ### The end marker (R173) -/

/-- Settles O13: the zero word decodes to END, which looks at no byte beyond it. -/
theorem endMarkerCompletes : Obligations.EndMarkerCompletes := by
  unfold Obligations.EndMarkerCompletes
  intro s h
  refine ⟨fun hh hb => step_eq_exec_header hh h hb, ?_⟩
  simp [exec, execEndMark, h, finishDecompress]

/-! ### Chunk setup (R175) -/

theorem chunkSize_eq_ofNat (m : BitVec 12) : chunkSize m = BitVec.ofNat 13 (m.toNat + 1) := by
  apply BitVec.eq_of_toNat_eq
  simp [chunkSize]

/-- The size, at most 4096, keeps its value where it is added to the cursor. -/
theorem chunkSize_setWidth (m : BitVec 12) : (chunkSize m).setWidth 33 = BitVec.ofNat 33 (m.toNat + 1) := by
  have hm := m.isLt
  apply BitVec.eq_of_toNat_eq
  simp only [chunkSize_eq_ofNat, BitVec.toNat_setWidth, BitVec.toNat_ofNat]
  omega

theorem chunkSetup_eq (c : Bool) (m : BitVec 12) (s : State) :
    chunkSetup c m s = { s with
      size := BitVec.ofNat 13 (m.toNat + 1)
      cflag := c
      ip := s.ip + 2
      chunkEnd := s.ip + 2 + BitVec.ofNat 33 (m.toNat + 1)
      pos := 0
      outBase := s.olen
      dstate := if c then .tag else .raw } := by
  rw [chunkSetup, chunkSize_setWidth, chunkSize_eq_ofNat]

theorem signatureError_eq_some {s : State} {sig : BitVec 3} (hs : s.strictL = true) (hsig : sig ≠ 3#3) :
    signatureError sig s = some .badSignature :=
  if_pos ⟨hs, hsig⟩

theorem signatureError_eq_none {s : State} (hs : s.strictL = false) (sig : BitVec 3) : signatureError sig s = none := by
  simp [signatureError, hs]

theorem exec_hdrR_of_atHeader {s : State} (h : s.atHeader = true) (m : BitVec 12) :
    exec (.hdrR m) s = .next (chunkSetup false m s) := by
  simp [exec, execHdrR, h]

theorem exec_hdrC_of_atHeader {s : State} (h : s.atHeader = true) (m : BitVec 12) :
    exec (.hdrC m) s = .next (chunkSetup true m s) := by
  simp [exec, execHdrC, h]

theorem exec_hdrRNs_of_atHeader {s : State} (h : s.atHeader = true) (sig : BitVec 3) (m : BitVec 12) :
    exec (.hdrRNs sig m) s = checkedBy (signatureError sig s) s (.next (chunkSetup false m s)) := by
  simp [exec, execHdrRNs, h]

theorem exec_hdrCNs_of_atHeader {s : State} (h : s.atHeader = true) (sig : BitVec 3) (m : BitVec 12) :
    exec (.hdrCNs sig m) s = checkedBy (signatureError sig s) s (.next (chunkSetup true m s)) := by
  simp [exec, execHdrCNs, h]

/-! ### The classes of a header word (R93) -/

theorem decodeHeader_of_conformant {h : Half} (h0 : h ≠ 0#16) (hsig : h.extractLsb' 12 3 = 3#3) :
    decodeHeader h = if h.getLsbD 15 then .hdrC (h.extractLsb' 0 12) else .hdrR (h.extractLsb' 0 12) := by
  simp only [decodeHeader, if_neg h0, if_pos hsig, BitVec.getLsbD_eq_extractLsb', beq_iff_eq]

theorem decodeHeader_of_nonStandard {h : Half} (h0 : h ≠ 0#16) (hsig : h.extractLsb' 12 3 ≠ 3#3) :
    decodeHeader h =
      if h.getLsbD 15 then .hdrCNs (h.extractLsb' 12 3) (h.extractLsb' 0 12)
      else .hdrRNs (h.extractLsb' 12 3) (h.extractLsb' 0 12) := by
  simp only [decodeHeader, if_neg h0, if_neg hsig, BitVec.getLsbD_eq_extractLsb', beq_iff_eq]

/-- Every header word that is not rejected opens its chunk, conformant or not, by its bit 15 and size (R174, R175). -/
theorem exec_decodeHeader_opens {s : State} {h : Half} (hat : s.atHeader = true) (h0 : h ≠ 0#16)
    (hok : h.extractLsb' 12 3 = 3#3 ∨ s.strictL = false) :
    exec (decodeHeader h) s = .next (chunkSetup (h.getLsbD 15) (h.extractLsb' 0 12) s) := by
  by_cases hsig : h.extractLsb' 12 3 = 3#3
  · rw [decodeHeader_of_conformant h0 hsig]
    cases h.getLsbD 15
    · exact exec_hdrR_of_atHeader hat _
    · exact exec_hdrC_of_atHeader hat _
  · have hnone := signatureError_eq_none (hok.resolve_left hsig) (h.extractLsb' 12 3)
    rw [decodeHeader_of_nonStandard h0 hsig]
    cases h.getLsbD 15
    · exact (exec_hdrRNs_of_atHeader hat _ _).trans (by rw [hnone, checkedBy_none])
    · exact (exec_hdrCNs_of_atHeader hat _ _).trans (by rw [hnone, checkedBy_none])

/-- Settles O14: every class of header that is not rejected is chunk setup. -/
theorem conformantHeadersOpenChunk : Obligations.ConformantHeadersOpenChunk := by
  unfold Obligations.ConformantHeadersOpenChunk
  refine ⟨fun s m hat => ⟨?raw, ?compressed⟩, fun s h hat h0 hok => ?word⟩
  case raw =>
    rw [exec_hdrR_of_atHeader hat, chunkSetup_eq]
    rfl
  case compressed =>
    rw [exec_hdrC_of_atHeader hat, chunkSetup_eq]
    rfl
  case word =>
    have hsize : (h.extractLsb' 0 12).toNat = h.toNat % 4096 := by simp
    rw [exec_decodeHeader_opens hat h0 hok, chunkSetup_eq, hsize]

/-- Settles O15: the signature check decides, and past it a non-standard header is chunk setup. -/
theorem nonStandardHeaders : Obligations.NonStandardHeaders := by
  unfold Obligations.NonStandardHeaders
  intro s sig m hat hsig
  obtain ⟨-, hds, -⟩ := atHeader_iff.mp hat
  rw [exec_hdrRNs_of_atHeader hat, exec_hdrCNs_of_atHeader hat]
  refine ⟨fun hs => ?strict, fun hs => ?lenient⟩
  case strict =>
    simp only [signatureError_eq_some hs hsig, checkedBy_some, takeError_eq_failed_zero (.inl hds)]
    exact ⟨rfl, rfl⟩
  case lenient =>
    simp only [signatureError_eq_none hs, checkedBy_none, chunkSetup_eq]
    exact ⟨rfl, rfl⟩

/-! ### The raw payload (R176) -/

theorem rawTruncated_eq_some {s : State} (h : s.inLen.toNat < s.chunkEnd.toNat) : rawTruncated s = some .shortRaw :=
  if_pos h

theorem rawTruncated_eq_none {s : State} (h : s.chunkEnd.toNat ≤ s.inLen.toNat) : rawTruncated s = none :=
  if_neg h.not_gt

theorem decode_raw_of_wellFormed {payload : List Byte} (h : (Instr.raw payload).wellFormed = true) :
    decode (.raw payload.length) payload = .token (.raw payload) [] := by
  obtain ⟨hlo, hhi⟩ : 1 ≤ payload.length ∧ payload.length ≤ 4096 := by simpa [Instr.wellFormed] using h
  have hne : payload ≠ [] := List.ne_nil_of_length_pos hlo
  simp [decode, hne, hhi]

theorem exec_raw_of_atRaw {s : State} {payload : List Byte} (h : s.atRaw payload.length = true) :
    exec (.raw payload) s =
      checkedBy (rawTruncated s) s (andThen (appendAll payload s) fun t =>
        .next { t with pos := t.size, ip := t.chunkEnd, dstate := .hdr }) := by
  simp [exec, execRaw, h]

theorem step_eq_exec_raw {s : State} {payload : List Byte} (hh : s.host = []) (h : s.atRaw payload.length = true)
    (hb : s.chunkEnd.toNat ≤ s.inLen.toNat → s.ip.toNat + payload.length ≤ s.inLen.toNat ∧
      (Instr.raw payload).wellFormed = true ∧ s.inBuf.readRun s.ip.toNat payload.length = some payload) :
    step s = exec (.raw payload) s := by
  refine step_eq_exec_of_checked (fetch_of_atRaw hh h) (exec_raw_of_atRaw h) fun hc => ?_
  obtain ⟨hin, hwf, hrun⟩ := hb (by simpa [rawTruncated] using hc)
  exact fetchToken_eq_instr hin hrun (decode_raw_of_wellFormed hwf)

theorem exec_raw_truncated {s : State} {payload : List Byte} (h : s.atRaw payload.length = true)
    (hin : s.inLen.toNat < s.chunkEnd.toNat) : exec (.raw payload) s = .next (failed 0x21#32 0#32 s) := by
  obtain ⟨-, hds, -⟩ := atRaw_iff.mp h
  rw [exec_raw_of_atRaw h, rawTruncated_eq_some hin, checkedBy_some, takeError_eq_failed_zero (.inr hds)]
  rfl

/-- A payload inside the input is appended, and then the chunk's end is due. -/
theorem exec_raw_of_appendAll {s t : State} {payload : List Byte} (h : s.atRaw payload.length = true)
    (hin : s.chunkEnd.toNat ≤ s.inLen.toNat) (happ : appendAll payload s = .next t) :
    exec (.raw payload) s = .next { t with pos := s.size, ip := s.chunkEnd, dstate := .hdr } := by
  rw [exec_raw_of_atRaw h, rawTruncated_eq_none hin, checkedBy_none, happ, andThen_next]
  obtain ⟨hframe, -⟩ := appendAll_eq_next happ
  rw [hframe]

/-- Settles O16: the one check is that of the fetch and of the meaning, and past it the payload is `appendAll`. -/
theorem rawPayloadIsCopied : Obligations.RawPayloadIsCopied := by
  unfold Obligations.RawPayloadIsCopied
  intro s payload h
  refine ⟨fun hh hin => ?truncated, fun hh _ hlen hwf hrun => step_eq_exec_raw hh h fun _ => ⟨hlen, hwf, hrun⟩,
    fun hin => exec_raw_truncated h hin, fun hin hroom => ?copied⟩
  case truncated =>
    exact (step_eq_exec_raw hh h fun hle => absurd hle hin.not_ge).trans (exec_raw_truncated h hin)
  case copied =>
    obtain ⟨t, happ⟩ := appendAll_succeeds hroom
    obtain ⟨hframe, -, hread⟩ := appendAll_eq_next happ
    refine ⟨_, exec_raw_of_appendAll h hin happ, ?_, hread⟩
    rw [hframe]

end Sys2Proof.Machine

/-! ## The start of DECOMPRESS (R170) -/

namespace Sys2Proof.Machine

theorem exec_cmdDecompress_starts {s : State} (hidle : s.engine ≠ .busy) (hapart : s.buffersShare = false)
    (hloaded : s.inputLoaded = true) (r : BitVec 30) : exec (.cmdDecompress r) s = .next (startDecompress s) :=
  whenCommandMayStart_of hidle hapart hloaded

theorem startDecompress_decoding (s : State) : (startDecompress s).decoding = true :=
  decoding_iff.mpr ⟨startDecompress_engine s, startDecompress_lastOp s⟩

/-- Settles O29: the command is its start, and on an empty input the first fetch finds the end of the stream. -/
theorem decompressStarts : Obligations.DecompressStarts := by
  unfold Obligations.DecompressStarts
  refine ⟨fun s r hidle hapart hloaded => exec_cmdDecompress_starts hidle hapart hloaded r,
    fun s r hidle hh hempty => ?_⟩
  have hstart := exec_cmdDecompress_starts hidle (buffersShare_of_empty hempty) (inputLoaded_of_empty hempty) r
  have hend : (startDecompress s).ip.toNat = (startDecompress s).inLen.toNat := by simp [hempty]
  exact ⟨_, _, hstart, step_of_inputEnd hh (startDecompress_decoding s) rfl hend, finishDecompress_engine _, rfl⟩

end Sys2Proof.Machine

/-! ## The start, the slice step and the emit step of COMPRESS (R200 to R206) -/

namespace Sys2Proof.Machine

/-! ### The step of a running encoder (D22) -/

theorem encoding_iff {s : State} : s.encoding = true ↔ s.engine = .busy ∧ s.lastOp = 1#2 := by
  simp [State.encoding]

theorem step_of_encoding {s : State} (hh : s.host = []) (he : s.encoding = true) : step s = encoderStep s := by
  obtain ⟨hbusy, hop⟩ := encoding_iff.mp he
  exact step_of_fetch_other (by simp [fetch, hh, fetchEngine, hbusy, hop])

theorem step_of_slice {s : State} (hh : s.host = []) (he : s.encoding = true) (hs : s.estate = .slice) :
    step s = sliceStep s := by
  rw [step_of_encoding hh he, encoderStep, hs]

theorem step_of_emit {s : State} (hh : s.host = []) (he : s.encoding = true) (hs : s.estate = .emit) :
    step s = emitStep s := by
  rw [step_of_encoding hh he, encoderStep, hs]

/-! ### The slice step (R202, R206) -/

theorem sliceStep_of_end {s : State} (h : s.sliceBase = s.inLen) : sliceStep s = .next (finishCompress s) :=
  if_pos h

theorem sliceStep_of_lt {s : State} (h : s.sliceBase.toNat < s.inLen.toNat) :
    sliceStep s = .next { s with
      sliceLen := BitVec.ofNat 13 (min 4096 (s.inLen.toNat - s.sliceBase.toNat))
      epos := 0
      candLen := 0
      eidx := 8#4
      mfIndex := []
      estate := .item } := by
  have hne : s.sliceBase ≠ s.inLen := fun heq => h.ne (congrArg BitVec.toNat heq)
  rw [sliceStep, if_neg hne, if_neg h.not_gt]

/-- Settles O32: the engine's step is the slice step, whose two branches the two clauses are. -/
theorem sliceStep_opens_or_completes : Obligations.SliceStep := by
  unfold Obligations.SliceStep
  intro s hh he hs
  rw [step_of_slice hh he hs]
  exact ⟨sliceStep_of_end, sliceStep_of_lt⟩

/-! ### The start of the command (R200) -/

theorem exec_cmdCompress_starts {s : State} (hidle : s.engine ≠ .busy) (hapart : s.buffersShare = false)
    (hloaded : s.inputLoaded = true) (r : BitVec 30) : exec (.cmdCompress r) s = .next (startCompress s) :=
  whenCommandMayStart_of hidle hapart hloaded

theorem startCompress_encoding (s : State) : (startCompress s).encoding = true :=
  encoding_iff.mpr ⟨startCompress_engine s, startCompress_lastOp s⟩

/-- Settles O30: the command is its start, and on an empty input the first slice step finds the end. -/
theorem compressStarts : Obligations.CompressStarts := by
  unfold Obligations.CompressStarts
  refine ⟨fun s r hidle hapart hloaded => exec_cmdCompress_starts hidle hapart hloaded r,
    fun s r hidle hh hempty => ?_⟩
  have hstart := exec_cmdCompress_starts hidle (buffersShare_of_empty hempty) (inputLoaded_of_empty hempty) r
  have hend : (startCompress s).sliceBase = (startCompress s).inLen := by simp [hempty]
  have hstep := step_of_slice (s := startCompress s) hh (startCompress_encoding s) rfl
  exact ⟨_, _, hstart, hstep.trans (sliceStep_of_end hend), finishCompress_engine _, rfl⟩

/-! ### Writing a framed chunk (R205) -/

/-- The header word as R205 computes it: the high bits `c`, `011`, then the payload's length less one. -/
theorem hdrWord_eq_ofNat (c : BitVec 1) {n : Nat} (hn : n ≤ 4096) :
    hdrWord c 3#3 (BitVec.ofNat 12 (n - 1)) = BitVec.ofNat 16 ((c ++ 3#3).toNat <<< 12 ||| (n - 1)) := by
  have hsize : (BitVec.ofNat 12 (n - 1)).toNat = n - 1 := Nat.mod_eq_of_lt (by omega)
  calc hdrWord c 3#3 (BitVec.ofNat 12 (n - 1))
      = BitVec.ofNat 16 (hdrWord c 3#3 (BitVec.ofNat 12 (n - 1))).toNat := by simp
    _ = BitVec.ofNat 16 ((c ++ 3#3).toNat <<< 12 ||| (n - 1)) := by rw [hdrWord, BitVec.toNat_append, hsize]

theorem emitChunk_succeeds {c : BitVec 1} {payload : List Byte} {s : State}
    (h : s.olen.toNat + 2 + payload.length ≤ s.outCap.toNat) : ∃ t, emitChunk c payload s = .next t :=
  appendAll_succeeds (by simp only [halfBytes, List.length_append, List.length_cons, List.length_nil]; omega)

/-- What writing a chunk does where it answers a next state: the header's two bytes, low first, then the payload stand
from the old OLEN on, and nothing else changes but OLEN (R62, R205). -/
theorem emitChunk_eq_next {c : BitVec 1} {payload : List Byte} {h : Half} {s t : State}
    (hw : hdrWord c 3#3 (BitVec.ofNat 12 (payload.length - 1)) = h) (hemit : emitChunk c payload s = .next t) :
    t = { s with outBuf := t.outBuf, olen := s.olen + BitVec.ofNat 32 (2 + payload.length) } ∧
      t.outBuf.read s.olen.toNat = some (BitVec.ofNat 8 h.toNat) ∧
      t.outBuf.read (s.olen.toNat + 1) = some (BitVec.ofNat 8 (h.toNat / 256)) ∧
      (∀ k, k < payload.length → t.outBuf.read (s.olen.toNat + 2 + k) = payload[k]?) ∧
      ∀ a, (a < s.olen.toNat ∨ s.olen.toNat + 2 + payload.length ≤ a) → t.outBuf.read a = s.outBuf.read a := by
  obtain ⟨hframe, -, hread⟩ := appendAll_eq_next hemit
  have hlen : (halfBytes h ++ payload).length = 2 + payload.length := by simp [halfBytes]; omega
  rw [hw, hlen] at hframe hread
  have hbyte : ∀ k, k < 2 + payload.length →
      t.outBuf.read (s.olen.toNat + k) = (halfBytes h ++ payload)[k]? := fun k hk => by
    rw [hread, if_pos (by omega), Nat.add_sub_cancel_left]
  refine ⟨hframe, ?lo, ?hi, fun k hk => ?payload, fun a ha => ?other⟩
  case lo => exact (hbyte 0 (by omega)).trans (congrArg some (loByte_eq_ofNat h))
  case hi => exact (hbyte 1 (by omega)).trans (congrArg some (hiByte_eq_ofNat h))
  case payload => rw [Nat.add_assoc, hbyte _ (by omega), Nat.add_comm]; rfl
  case other => rw [hread, if_neg (by omega)]

/-! ### The emit step (R204) -/

/-- What the invariant says of a slice whose items are all packed: a candidate of at least one byte, of which every
byte has a value, and a slice of 1 to 4096 bytes inside the input. -/
theorem slice_of_emit {s : State} (hinv : s.Inv) (he : s.encoding = true) (hs : s.estate = .emit) :
    1 ≤ s.sliceLen.toNat ∧ s.sliceLen.toNat ≤ 4096 ∧ s.sliceBase.toNat + s.sliceLen.toNat ≤ s.inLen.toNat ∧
      1 ≤ s.candLen.toNat := by
  obtain ⟨-, -, -, henc, -⟩ := hinv
  obtain ⟨-, -, hstate⟩ := henc he
  rw [hs] at hstate
  obtain ⟨⟨hlo, hhi, hin, -, -, -, hcand, -, -⟩, hepos⟩ := hstate
  exact ⟨hlo, hhi, hin, hcand (by rw [hepos]; exact hlo)⟩

theorem withSlice_of_readRun {s : State} {bytes : List Byte}
    (hin : s.sliceBase.toNat + s.sliceLen.toNat ≤ s.inLen.toNat)
    (hrun : s.inBuf.readRun s.sliceBase.toNat s.sliceLen.toNat = some bytes) (f : List Byte → Answer) :
    withSlice s f = f bytes := by
  rw [withSlice, if_neg hin.not_gt, hrun]

theorem emitStep_raw {s : State} {payload : List Byte} (hinv : s.Inv) (he : s.encoding = true)
    (hs : s.estate = .emit) (hle : s.sliceLen.toNat ≤ s.candLen.toNat)
    (hrun : s.inBuf.readRun s.sliceBase.toNat s.sliceLen.toNat = some payload) :
    emitStep s = andThen (emitChunk 0#1 payload s) nextSlice := by
  obtain ⟨hlo, hhi, hin, hcand⟩ := slice_of_emit hinv he hs
  rw [emitStep, if_neg (by omega), if_pos hle, withSlice_of_readRun hin hrun]

theorem emitStep_compressed {s : State} {payload : List Byte} (hinv : s.Inv) (he : s.encoding = true)
    (hs : s.estate = .emit) (hlt : s.candLen.toNat < s.sliceLen.toNat)
    (hrun : s.cand.readRun 0 s.candLen.toNat = some payload) :
    emitStep s = andThen (emitChunk 1#1 payload s) nextSlice := by
  obtain ⟨hlo, hhi, -, hcand⟩ := slice_of_emit hinv he hs
  rw [emitStep, if_neg (by omega), if_neg hlt.not_ge, hrun]

/-- The emit step writes one chunk and goes on to the next slice; `h` is the header of the form it chose (R204). -/
theorem emitStep_eq_emitChunk {s : State} {payload : List Byte} {h : Half} (hinv : s.Inv) (he : s.encoding = true)
    (hs : s.estate = .emit)
    (hraw : s.sliceLen.toNat ≤ s.candLen.toNat →
      s.inBuf.readRun s.sliceBase.toNat s.sliceLen.toNat = some payload ∧
        h = BitVec.ofNat 16 (0x3000 ||| (s.sliceLen.toNat - 1)))
    (hcomp : s.candLen.toNat < s.sliceLen.toNat →
      s.cand.readRun 0 s.candLen.toNat = some payload ∧ h = BitVec.ofNat 16 (0xB000 ||| (s.candLen.toNat - 1))) :
    ∃ c, emitStep s = andThen (emitChunk c payload s) nextSlice ∧
      hdrWord c 3#3 (BitVec.ofNat 12 (payload.length - 1)) = h := by
  obtain ⟨-, hhi, -, -⟩ := slice_of_emit hinv he hs
  rcases Nat.lt_or_ge s.candLen.toNat s.sliceLen.toNat with hlt | hle
  case inl =>
    obtain ⟨hrun, rfl⟩ := hcomp hlt
    refine ⟨1#1, emitStep_compressed hinv he hs hlt hrun, ?_⟩
    rw [Memory.readRun_length hrun]
    exact hdrWord_eq_ofNat 1#1 (by omega)
  case inr =>
    obtain ⟨hrun, rfl⟩ := hraw hle
    refine ⟨0#1, emitStep_raw hinv he hs hle hrun, ?_⟩
    rw [Memory.readRun_length hrun]
    exact hdrWord_eq_ofNat 0#1 hhi

/-- After the chunk the next slice starts where this one ended (R204). -/
theorem nextSlice_of_emitChunk {c : BitVec 1} {payload : List Byte} {s t : State}
    (hemit : emitChunk c payload s = .next t) :
    andThen (emitChunk c payload s) nextSlice = .next { t with
      sliceBase := BitVec.ofNat 32 (s.sliceBase.toNat + s.sliceLen.toNat), estate := .slice } := by
  obtain ⟨hframe, -⟩ := emitChunk_eq_next rfl hemit
  rw [hemit, andThen_next, nextSlice, hframe]
  simp [BitVec.ofNat_add]

/-- Settles O38: in both forms the step is `emitChunk` of the payload, then `nextSlice`. -/
theorem emitStep_writes_chunk : Obligations.EmitStep := by
  unfold Obligations.EmitStep
  intro s payload h hh he hs hinv hraw hcomp hroom
  obtain ⟨c, hstep, hw⟩ := emitStep_eq_emitChunk hinv he hs hraw hcomp
  obtain ⟨t, hemit⟩ := emitChunk_succeeds (c := c) hroom
  obtain ⟨hframe, hreads⟩ := emitChunk_eq_next hw hemit
  have hnext := (step_of_emit hh he hs).trans (hstep.trans (nextSlice_of_emitChunk hemit))
  refine ⟨_, hnext, ?_, hreads⟩
  rw [hframe]

end Sys2Proof.Machine

/-! ## The match finder (R221 to R223) -/

namespace Sys2Proof.Machine

/-! ### The match length (R221, R222) -/

/-- Strings whose first bytes differ agree on no byte. -/
theorem le_zero_iff_of_heads_ne {n m : Nat} {xs ys : List Byte} (hne : xs[0]? ≠ ys[0]?) :
    n ≤ 0 ↔ n ≤ m ∧ ∀ k, k < n → xs[k]? = ys[k]? := by
  constructor
  · intro hn
    exact ⟨by omega, fun k hk => by omega⟩
  · rintro ⟨-, hagree⟩
    exact Nat.le_of_not_lt fun hpos => hne (hagree 0 hpos)

/-- The match length characterised by its lower bounds, for a cap within the target: what "largest" in R222 says. -/
theorem le_matchLen_iff {n cap : Nat} {xs ys : List Byte} (hcap : cap ≤ ys.length) :
    n ≤ matchLen cap xs ys ↔ n ≤ cap ∧ ∀ k, k < n → xs[k]? = ys[k]? := by
  induction cap, xs, ys using matchLen.induct generalizing n with
  | case1 xs ys =>
    rw [matchLen, iff_self_and]
    intro hn k hk
    omega
  | case2 cap x xs ys ih =>
    rw [matchLen, if_pos rfl]
    cases n with
    | zero => simp
    | succ n =>
      rw [Nat.succ_le_succ_iff, ih (Nat.le_of_succ_le_succ hcap), Nat.forall_lt_succ_left]
      simp
  | case3 cap x xs y ys hne =>
    rw [matchLen, if_neg hne]
    exact le_zero_iff_of_heads_ne (by simpa using hne)
  | case4 cap xs ys hnil =>
    cases ys with
    | nil => exact absurd hcap (Nat.not_succ_le_zero cap)
    | cons y ys =>
      cases xs with
      | nil => exact le_zero_iff_of_heads_ne (by simp)
      | cons x xs => exact (hnil x xs y ys rfl rfl).elim

/-- The cap keeps a match inside the slice. -/
theorem maxLen_le_sub (n p : Nat) : maxLen n p ≤ n - p :=
  min_le_left _ _

/-- R222 in the slice's own bytes: the source starts `d` before `p` and may run past it. -/
theorem le_matchAt_iff {bytes : List Byte} {p d n : Nat} :
    n ≤ matchAt bytes p d ↔
      n ≤ maxLen bytes.length p ∧ ∀ k, k < n → bytes[p - d + k]? = bytes[p + k]? := by
  have hcap : maxLen bytes.length p ≤ (bytes.drop p).length := by
    rw [List.length_drop]
    exact maxLen_le_sub _ _
  rw [matchAt, le_matchLen_iff hcap]
  simp only [List.getElem?_drop]

/-- Settles O35: the match length is at least itself, and `le_matchAt_iff` reads off both its bounds. -/
theorem matchLengthIsLargest : Obligations.MatchLengthIsLargest := by
  unfold Obligations.MatchLengthIsLargest
  intro bytes p d _ _ _
  obtain ⟨hle, hagree⟩ := le_matchAt_iff.mp (le_refl (matchAt bytes p d))
  exact ⟨rfl, hle, hagree, fun n hn hbytes => le_matchAt_iff.mpr ⟨hn, hbytes⟩⟩

/-! ### The search over the displacements (R223) -/

/-- What the search has found once it has examined the displacements below `e`: `best` is a displacement with its match
length, that length is the greatest so far, and no nearer displacement reaches it. Length 0 stands for no match. -/
structure NearestLongest (bytes : List Byte) (p e : Nat) (best : Nat × Nat) : Prop where
  longest : ∀ d, 1 ≤ d → d < e → matchAt bytes p d ≤ best.2
  reached : 0 < best.2 → 1 ≤ best.1 ∧ best.1 < e ∧ matchAt bytes p best.1 = best.2
  nearest : 0 < best.2 → ∀ d, 1 ≤ d → d < best.1 → matchAt bytes p d < best.2

theorem NearestLongest.initial (bytes : List Byte) (p : Nat) : NearestLongest bytes p 1 (0, 0) where
  longest d hd hlt := by omega
  reached h := absurd h (lt_irrefl 0)
  nearest h := absurd h (lt_irrefl 0)

/-- Examining one more displacement keeps the invariant: only a strictly longer match replaces the best so far. -/
theorem NearestLongest.next {bytes : List Byte} {p e : Nat} {best : Nat × Nat} (he : 1 ≤ e)
    (h : NearestLongest bytes p e best) :
    NearestLongest bytes p (e + 1)
      (if best.2 < matchAt bytes p e then (e, matchAt bytes p e) else best) := by
  split
  case isTrue hlonger =>
    have hbelow : ∀ d, 1 ≤ d → d < e → matchAt bytes p d < matchAt bytes p e :=
      fun d hd hlt => (h.longest d hd hlt).trans_lt hlonger
    refine ⟨fun d hd hlt => ?_, fun _ => ⟨he, Nat.lt_succ_self e, rfl⟩, fun _ => hbelow⟩
    rcases Nat.lt_succ_iff_lt_or_eq.mp hlt with hlt | rfl
    · exact (hbelow d hd hlt).le
    · exact le_rfl
  case isFalse hnot =>
    refine ⟨fun d hd hlt => ?_, fun hpos => ?_, h.nearest⟩
    · rcases Nat.lt_succ_iff_lt_or_eq.mp hlt with hlt | rfl
      · exact h.longest d hd hlt
      · exact not_lt.mp hnot
    · obtain ⟨hone, hlt, hreach⟩ := h.reached hpos
      exact ⟨hone, hlt.trans (Nat.lt_succ_self e), hreach⟩

/-- The search with `k` bytes still before its source: they are the displacements from `d` to `p`. -/
theorem searchMatch_nearestLongest {bytes : List Byte} {p k d : Nat} {best : Nat × Nat} (hp : p < bytes.length)
    (hd : 1 ≤ d) (hk : k + d = p + 1) (h : NearestLongest bytes p d best) :
    NearestLongest bytes p (p + 1)
      (searchMatch (maxLen bytes.length p) (bytes.drop p) (bytes.take k).reverse (bytes.drop k) d best) := by
  induction k generalizing d best with
  | zero =>
    obtain rfl : d = p + 1 := by omega
    exact h
  | succ k ih =>
    have hlt : k < bytes.length := by omega
    have hsource : p - d = k := by omega
    have hlen : matchLen (maxLen bytes.length p) (bytes.drop k) (bytes.drop p) = matchAt bytes p d := by
      rw [matchAt, hsource]
    rw [List.take_succ_eq_append_getElem hlt, List.reverse_concat, searchMatch, List.cons_getElem_drop_succ, hlen]
    exact ih (by omega) (by omega) (h.next hd)

theorem bestMatch_nearestLongest {bytes : List Byte} {p : Nat} (hp : p < bytes.length) :
    NearestLongest bytes p (p + 1) (bestMatch bytes p) :=
  searchMatch_nearestLongest hp le_rfl rfl (.initial bytes p)

/-! ### The item chosen (R223) -/

theorem chooseItem_of_lt {bytes : List Byte} {p : Nat} (hp : p < bytes.length) :
    chooseItem bytes p =
      if 3 ≤ (bestMatch bytes p).2 then some (.ref p (bestMatch bytes p).1 (bestMatch bytes p).2)
      else some (.lit bytes[p]) := by
  rw [chooseItem, List.drop_eq_getElem_cons hp]

theorem chooseItem_eq_ref_iff {bytes : List Byte} {p q d l : Nat} (hp : p < bytes.length) :
    chooseItem bytes p = some (.ref q d l) ↔ 3 ≤ l ∧ q = p ∧ bestMatch bytes p = (d, l) := by
  rw [chooseItem_of_lt hp]
  split
  case isTrue hlong =>
    constructor
    · rintro ⟨⟩
      exact ⟨hlong, rfl, rfl⟩
    · rintro ⟨-, rfl, hbest⟩
      rw [hbest]
  case isFalse hshort =>
    refine iff_of_false (by simp) ?_
    rintro ⟨hl, -, hbest⟩
    rw [hbest] at hshort
    exact hshort hl

theorem chooseItem_eq_lit_iff {bytes : List Byte} {p : Nat} {b : Byte} (hp : p < bytes.length) :
    chooseItem bytes p = some (.lit b) ↔ (bestMatch bytes p).2 < 3 ∧ bytes[p]? = some b := by
  rw [chooseItem_of_lt hp, List.getElem?_eq_getElem hp]
  split
  case isTrue hlong => simp [hlong]
  case isFalse hshort => simp [Nat.lt_of_not_le hshort]

/-- Settles O34: the search ends with the nearest of the longest over every displacement, and its length decides the
item. -/
theorem choiceIsNearestLongest : Obligations.ChoiceIsNearestLongest := by
  unfold Obligations.ChoiceIsNearestLongest
  intro bytes p hp
  obtain ⟨hlongest, hreached, hnearest⟩ := bestMatch_nearestLongest hp
  refine ⟨?some, fun q d l href => ?ref, fun b hlit => ?lit⟩
  case some =>
    rw [chooseItem_of_lt hp]
    split <;> exact ⟨_, rfl⟩
  case ref =>
    obtain ⟨hl, rfl, hbest⟩ := (chooseItem_eq_ref_iff hp).mp href
    rw [hbest] at hlongest hreached hnearest
    have hpos : 0 < l := by omega
    obtain ⟨hone, hle, hreach⟩ := hreached hpos
    exact ⟨rfl, hone, Nat.le_of_lt_succ hle, hl, hreach, fun d' hd hdp => hlongest d' hd (Nat.lt_succ_of_le hdp),
      hnearest hpos⟩
  case lit =>
    obtain ⟨hshort, hbyte⟩ := (chooseItem_eq_lit_iff hp).mp hlit
    exact ⟨hbyte, fun d' hd hdp => (hlongest d' hd (Nat.lt_succ_of_le hdp)).trans_lt hshort⟩

end Sys2Proof.Machine

/-! ## The error entry (R247) -/

namespace Sys2Proof.Machine

/-! ### Answers that fail only by the error entry -/

/-- Where the answer given in `s` is a state of ERROR, that state is what the error entry makes of `s`: no other write
of the step stands beside the entry's. -/
def FailsByEntry (s : State) (a : Answer) : Prop :=
  ∀ t, a = .next t → t.engine = .error → ∃ c, t = takeError c s

theorem FailsByEntry.of_engine_ne {s : State} {a : Answer} (h : ∀ t, a = .next t → t.engine ≠ .error) :
    FailsByEntry s a :=
  fun t ht he => absurd he (h t ht)

theorem FailsByEntry.of_next {s t : State} (h : t.engine ≠ .error) : FailsByEntry s (.next t) := by
  rintro _ ⟨⟩ he
  exact absurd he h

theorem FailsByEntry.of_takeError (c : Cause) (s : State) : FailsByEntry s (.next (takeError c s)) := by
  rintro _ ⟨⟩ -
  exact ⟨c, rfl⟩

theorem FailsByEntry.of_fault (s : State) (r : Fault) : FailsByEntry s (.fault r) := nofun

theorem FailsByEntry.of_refused (s : State) (r : Refusal) : FailsByEntry s (.refused r) := nofun

theorem FailsByEntry.inPlace {s : State} {a : Answer} (h : FailsByEntry s a) (here : Bool) :
    FailsByEntry s (inPlace here a) :=
  fun t ht => h t (inPlace_eq_next ht).2

theorem FailsByEntry.checkedBy {s : State} {a : Answer} (h : FailsByEntry s a) (c : Option Cause) :
    FailsByEntry s (checkedBy c s a) := by
  cases c with
  | some cause => exact .of_takeError cause s
  | none => exact h

/-! ### What keeps STATUS.STATE -/

theorem append_engine {b : Byte} {s t : State} (h : append b s = .next t) : t.engine = s.engine := by
  obtain ⟨-, rfl⟩ := append_eq_next h
  rfl

theorem appendAll_engine {bs : List Byte} {s t : State} (h : appendAll bs s = .next t) : t.engine = s.engine := by
  obtain ⟨hframe, -⟩ := appendAll_eq_next h
  rw [hframe]
  rfl

theorem copyBytes_engine {d l : Nat} {s t : State} (h : copyBytes d l s = .next t) : t.engine = s.engine := by
  obtain ⟨hframe, -⟩ := copyBytes_eq_next h
  rw [hframe]
  rfl

/-- A meaning that stores first and then writes registers other than STATUS cannot fail. -/
theorem FailsByEntry.of_andThen {s : State} {o : Answer} {f : State → State} (hs : s.engine ≠ .error)
    (ho : ∀ u, o = .next u → u.engine = s.engine) (hf : ∀ u, (f u).engine = u.engine) :
    FailsByEntry s (andThen o fun u => .next (f u)) := by
  refine .of_engine_ne fun t ht => ?_
  obtain ⟨u, hu, ⟨⟩⟩ := andThen_eq_next ht
  rwa [hf, ho u hu]

/-! ### The meanings of the instructions -/

theorem execRaw_failsByEntry {s : State} (hs : s.engine ≠ .error) (payload : List Byte) :
    FailsByEntry s (execRaw payload s) := by
  refine .inPlace (.checkedBy (.of_andThen hs (fun _ => appendAll_engine) ?_) _) _
  exact fun _ => rfl

theorem execLit_failsByEntry {s : State} (hs : s.engine ≠ .error) (b : Byte) : FailsByEntry s (execLit b s) := by
  refine .inPlace (.checkedBy (.checkedBy (.of_andThen hs (fun _ => append_engine) ?_) _) _) _
  exact fun _ => rfl

theorem backReference_failsByEntry {s : State} (hs : s.engine ≠ .error) (ob d l : Nat) :
    FailsByEntry s (backReference ob d l s) := by
  refine .inPlace (.checkedBy (.checkedBy (.of_andThen hs (fun _ => copyBytes_engine) ?_) _) _) _
  exact fun _ => rfl

theorem whenNotBusy_failsByEntry {s : State} {a : Answer} (h : FailsByEntry s a) : FailsByEntry s (whenNotBusy s a) :=
  fun t ht => h t (whenNotBusy_eq_next ht).2

theorem whenCommandMayStart_failsByEntry {s : State} {a : Answer} (h : FailsByEntry s a) :
    FailsByEntry s (whenCommandMayStart s a) := fun t ht => by
  obtain ⟨-, -, -, ha⟩ := whenCommandMayStart_eq_next ht
  exact h t ha

theorem exec_failsByEntry {s : State} (hs : s.engine ≠ .error) (i : Instr) : FailsByEntry s (exec i s) := by
  cases i
  case endMark => exact .inPlace (.of_next (by simp)) _
  case hdrR | hdrC =>
    refine .inPlace ?_ _
    exact .of_next hs
  case hdrRNs | hdrCNs | tag =>
    refine .inPlace (.checkedBy ?_ _) _
    exact .of_next hs
  case raw payload => exact execRaw_failsByEntry hs payload
  case lit b => exact execLit_failsByEntry hs b
  case cmdNop | cmdRsvd => exact whenNotBusy_failsByEntry (.of_next hs)
  case cmdCompress | cmdDecompress => exact whenCommandMayStart_failsByEntry (.of_next (by simp))
  all_goals exact backReference_failsByEntry hs _ _ _

/-! ### Packing writes only CAND and its registers (R150) -/

theorem OnlyCandidate.engine {s t : State} (h : OnlyCandidate s t) : t.engine = s.engine := by
  rw [h]
  rfl

theorem pushCand_onlyCandidate {b : Byte} {s t : State} (h : pushCand b s = .next t) : OnlyCandidate s t := by
  obtain ⟨-, rfl⟩ := pushCand_eq_next h
  rfl

theorem setTagBit_onlyCandidate {s t : State} (h : setTagBit s = .next t) : OnlyCandidate s t := by
  obtain ⟨v, -, rfl⟩ := setTagBit_eq_next h
  rfl

theorem openGroup_onlyCandidate {s t : State} (h : openGroup s = .next t) : OnlyCandidate s t := by
  unfold openGroup at h
  split at h
  case isTrue =>
    obtain ⟨u, hpush, ⟨⟩⟩ := andThen_eq_next h
    obtain ⟨-, rfl⟩ := pushCand_eq_next hpush
    rfl
  case isFalse =>
    cases h
    rfl

theorem packItem_onlyCandidate {it : Item} {s t : State} (h : packItem it s = .next t) : OnlyCandidate s t := by
  cases it with
  | lit b => exact pushCand_onlyCandidate h
  | ref p d l =>
    obtain ⟨u, hbit, hpush⟩ := andThen_eq_next h
    obtain ⟨v, hlo, hhi⟩ := andThen_eq_next hpush
    exact ((setTagBit_onlyCandidate hbit).trans (pushCand_onlyCandidate hlo)).trans (pushCand_onlyCandidate hhi)

theorem addItem_onlyCandidate {it : Item} {s t : State} (h : addItem it s = .next t) : OnlyCandidate s t := by
  obtain ⟨u, hopen, hpack⟩ := andThen_eq_next h
  obtain ⟨v, hitem, ⟨⟩⟩ := andThen_eq_next hpack
  exact ((openGroup_onlyCandidate hopen).trans (packItem_onlyCandidate hitem)).trans rfl

/-! ### The encoder never fails (R208) -/

/-- A step that read the slice went on with its bytes. -/
theorem withSlice_eq_next {s t : State} {f : List Byte → Answer} (h : withSlice s f = .next t) :
    ∃ bytes, s.inBuf.readRun s.sliceBase.toNat s.sliceLen.toNat = some bytes ∧ f bytes = .next t := by
  unfold withSlice at h
  split at h
  · cases h
  · split at h
    · cases h
    · exact ⟨_, ‹_›, h⟩

theorem sliceStep_engine {s t : State} (h : sliceStep s = .next t) : t.engine = s.engine ∨ t.engine = .done := by
  unfold sliceStep at h
  split at h
  · cases h
    exact .inr (finishCompress_engine s)
  · split at h
    · cases h
    · cases h
      exact .inl rfl

theorem itemStep_engine {s t : State} (h : itemStep s = .next t) : t.engine = s.engine := by
  unfold itemStep at h
  split at h
  · cases h
    rfl
  · obtain ⟨bytes, -, hitem⟩ := withSlice_eq_next h
    split at hitem
    · cases hitem
    · exact (addItem_onlyCandidate hitem).engine

theorem emitChunk_nextSlice_engine {c : BitVec 1} {payload : List Byte} {s t : State}
    (h : andThen (emitChunk c payload s) nextSlice = .next t) : t.engine = s.engine := by
  obtain ⟨u, hemit, ⟨⟩⟩ := andThen_eq_next h
  have hkept : u.engine = s.engine := appendAll_engine hemit
  exact hkept

theorem emitStep_engine {s t : State} (h : emitStep s = .next t) : t.engine = s.engine := by
  unfold emitStep at h
  split at h
  · cases h
  · split at h
    · obtain ⟨bytes, -, hemit⟩ := withSlice_eq_next h
      exact emitChunk_nextSlice_engine hemit
    · split at h
      · cases h
      · exact emitChunk_nextSlice_engine h

theorem encoderStep_engine {s t : State} (h : encoderStep s = .next t) : t.engine = s.engine ∨ t.engine = .done := by
  unfold encoderStep at h
  split at h
  · exact sliceStep_engine h
  · exact .inl (itemStep_engine h)
  · exact .inl (emitStep_engine h)
  · cases h
  · cases h

theorem encoderStep_failsByEntry {s : State} (hs : s.engine ≠ .error) : FailsByEntry s (encoderStep s) :=
  .of_engine_ne fun t ht => by
    rcases encoderStep_engine ht with he | he
    · rwa [he]
    · simp [he]

/-! ### The fetch -/

/-- What a step makes of what it fetched. -/
def Fetched.answer : Fetched → Answer
  | .instr i s => exec i s
  | .other a => a

theorem step_eq_fetch_answer (s : State) : step s = (fetch s).answer := by
  cases h : fetch s with
  | instr i t => exact step_of_fetch_instr h
  | other a => exact step_of_fetch_other h

theorem fetchToken_failsByEntry {s : State} (hs : s.engine ≠ .error) (p : Place) (n : Nat) :
    FailsByEntry s (fetchToken p n s).answer := by
  unfold fetchToken
  split
  · exact .of_fault s _
  · split
    · exact .of_refused s _
    · split
      · exact exec_failsByEntry hs _
      · exact .of_fault s _

theorem fetchUnless_failsByEntry {s : State} {f : Fetched} (h : FailsByEntry s f.answer) (c : Option Cause) :
    FailsByEntry s (fetchUnless c s f).answer := by
  cases c with
  | some cause => exact .of_takeError cause s
  | none => exact h

theorem fetchHeader_failsByEntry {s : State} (hs : s.engine ≠ .error) : FailsByEntry s (fetchHeader s).answer := by
  unfold fetchHeader
  split
  · exact .of_next (by simp)
  · split
    · exact .of_takeError .loneByte s
    · exact fetchToken_failsByEntry hs _ _

theorem fetchTag_failsByEntry {s : State} (hs : s.engine ≠ .error) : FailsByEntry s (fetchTag s).answer := by
  unfold fetchTag
  split
  · exact .of_next hs
  · exact fetchUnless_failsByEntry (fetchToken_failsByEntry hs _ _) _

theorem fetchItem_failsByEntry {s : State} (hs : s.engine ≠ .error) : FailsByEntry s (fetchItem s).answer := by
  unfold fetchItem
  split
  · exact .of_next hs
  split
  · exact .of_next hs
  split
  · exact .of_fault s _
  split
  · exact fetchUnless_failsByEntry (fetchToken_failsByEntry hs _ _) _
  · exact fetchUnless_failsByEntry (fetchToken_failsByEntry hs _ _) _

theorem fetchDecoder_failsByEntry {s : State} (hs : s.engine ≠ .error) : FailsByEntry s (fetchDecoder s).answer := by
  unfold fetchDecoder
  split
  · exact fetchHeader_failsByEntry hs
  · exact fetchUnless_failsByEntry (fetchToken_failsByEntry hs _ _) _
  · exact fetchTag_failsByEntry hs
  · exact fetchItem_failsByEntry hs
  · exact .of_fault s _
  · exact .of_fault s _

theorem fetchEngine_failsByEntry {s : State} (hs : s.engine ≠ .error) : FailsByEntry s (fetchEngine s).answer := by
  unfold fetchEngine
  split
  · split
    · exact fetchDecoder_failsByEntry hs
    · split
      · exact encoderStep_failsByEntry hs
      · exact .of_fault s _
  · exact .of_next hs

/-! ### The engine's step -/

theorem fetch_of_host_nil {s : State} (hh : s.host = []) : fetch s = fetchEngine s := by
  simp [fetch, hh]

theorem step_of_not_busy {s : State} (hh : s.host = []) (hidle : s.engine ≠ .busy) : step s = .next s :=
  step_of_fetch_other ((fetch_of_host_nil hh).trans (if_neg hidle))

theorem step_failsByEntry {s : State} (hh : s.host = []) (hs : s.engine ≠ .error) : FailsByEntry s (step s) := by
  rw [step_eq_fetch_answer, fetch_of_host_nil hh]
  exact fetchEngine_failsByEntry hs

/-- Settles O24: every answer of the engine fails by the error entry alone, and `failed` is that entry's writes. -/
theorem errorEntryIsPrecise : Obligations.ErrorEntryIsPrecise := by
  unfold Obligations.ErrorEntryIsPrecise
  refine ⟨fun c s => rfl, fun s t hh hs hstep herr => step_failsByEntry hh hs t hstep herr, fun s hh herr => ?_⟩
  exact step_of_not_busy hh (by simp [herr])

end Sys2Proof.Machine

/-! ## The host's writes while BUSY (R278) -/

namespace Sys2Proof.Machine

/-! ### The step that takes a write of a register other than CMD, or a load of IN -/

theorem step_of_writeReg_succ {s : State} {n : Nat} {v : Word} {q : List HostAction}
    (h : s.host = .writeReg (n + 1) v :: q) : step s = writeRegister (n + 1) v { s with host := q } := by
  simp [step, fetch, h, fetchHost]

theorem step_of_loadIn {s : State} {a : Word} {b : Byte} {q : List HostAction} (h : s.host = .loadIn a b :: q) :
    step s = loadInput a b { s with host := q } := by
  simp [step, fetch, h, fetchHost]

/-! ### What BUSY refuses -/

theorem writeRegister_cfg_of_busy {s : State} (h : s.engine = .busy) (v : Word) :
    writeRegister 1 v s = .refused .hostWriteWhileBusy :=
  whenNotBusy_of_busy h _

theorem writeRegister_inLen_of_busy {s : State} (h : s.engine = .busy) (v : Word) :
    writeRegister 4 v s = .refused .hostWriteWhileBusy :=
  whenNotBusy_of_busy h _

/-- An address that IN has passes the range test, so the load comes to the test of BUSY. -/
theorem loadInput_of_lt {s : State} {a : Word} (ha : a.toNat < s.inCap.toNat) (b : Byte) :
    loadInput a b s = whenNotBusy s (.next { s with inBuf := s.inBuf.write a.toNat b }) :=
  if_neg ha.not_ge

theorem loadInput_of_busy {s : State} {a : Word} (h : s.engine = .busy) (ha : a.toNat < s.inCap.toNat) (b : Byte) :
    loadInput a b s = .refused .hostWriteWhileBusy := by
  rw [loadInput_of_lt ha, whenNotBusy_of_busy h]

/-- Settles O56: each of the four writes is guarded by BUSY, and taking the action off the
queue leaves the engine BUSY. -/
theorem hostWritesWhileBusyRefused : Obligations.HostWritesWhileBusyRefused := by
  unfold Obligations.HostWritesWhileBusyRefused
  intro s q hs
  have hbusy : { s with host := q }.engine = .busy := hs
  refine ⟨?register, ?load⟩
  case register =>
    rintro v (hcmd | hcfg | hlen)
    · rw [step_of_writeCmd hcmd, exec_decodeCmd_of_busy v hbusy]
    · rw [step_of_writeReg_succ hcfg, writeRegister_cfg_of_busy hbusy]
    · rw [step_of_writeReg_succ hlen, writeRegister_inLen_of_busy hbusy]
  case load =>
    intro a b hload ha
    rw [step_of_loadIn hload, loadInput_of_busy hbusy ha]

end Sys2Proof.Machine

/-! ## Encoding and decoding (R90 to R105) -/

namespace Sys2Proof

open Sys2Proof.Machine

/-! ### The bytes of a word -/

/-- Two neighbouring fields that fill a word are the word. -/
theorem append_fields_eq_self {n k : Nat} (f : BitVec (n + k)) : f.extractLsb' k n ++ f.extractLsb' 0 k = f :=
  (BitVec.extractLsb'_append_extractLsb'_eq_extractLsb' (Nat.zero_add k).symm).trans BitVec.extractLsb'_eq_self

/-- A field above the low part of two fields side by side is a field of the high part. -/
theorem extractLsb'_append_above {n m : Nat} (a : BitVec n) (b : BitVec m) (j k : Nat) :
    (a ++ b).extractLsb' (m + j) k = a.extractLsb' j k := by
  rw [BitVec.extractLsb'_append_eq_ite, dif_neg (by omega), Nat.add_sub_cancel_left]

theorem le16_bytes (h : Half) : le16 (loByte h) (hiByte h) = h :=
  append_fields_eq_self (n := 8) (k := 8) h

@[simp] theorem loByte_le16 (b0 b1 : Byte) : loByte (le16 b0 b1) = b0 :=
  BitVec.extractLsb'_append_eq_right

@[simp] theorem hiByte_le16 (b0 b1 : Byte) : hiByte (le16 b0 b1) = b1 :=
  BitVec.extractLsb'_append_eq_left

/-- A half word's bytes, read back. -/
theorem halfBytes_le16 (b0 b1 : Byte) : halfBytes (le16 b0 b1) = [b0, b1] := by
  simp [halfBytes]

/-- A `CMD` word's bytes, the first being bits 7:0, read back. -/
theorem le32_bytes (w : Word) :
    le32 (w.extractLsb' 0 8) (w.extractLsb' 8 8) (w.extractLsb' 16 8) (w.extractLsb' 24 8) = w := by
  have h16 : w.extractLsb' 24 8 ++ w.extractLsb' 16 8 = w.extractLsb' 16 (8 + 8) :=
    BitVec.extractLsb'_append_extractLsb'_eq_extractLsb' rfl
  have h8 : w.extractLsb' 16 (8 + 8) ++ w.extractLsb' 8 8 = w.extractLsb' 8 (8 + 8 + 8) :=
    BitVec.extractLsb'_append_extractLsb'_eq_extractLsb' rfl
  rw [le32, h16, h8]
  exact append_fields_eq_self (n := 24) (k := 8) w

theorem wordBytes_le32 (b0 b1 b2 b3 : Byte) : wordBytes (le32 b0 b1 b2 b3) = [b0, b1, b2, b3] := by
  have h0 : (le32 b0 b1 b2 b3).extractLsb' 0 8 = b0 := BitVec.extractLsb'_append_eq_right
  have h1 : (le32 b0 b1 b2 b3).extractLsb' 8 8 = b1 :=
    (extractLsb'_append_above (b3 ++ b2 ++ b1) b0 0 8).trans BitVec.extractLsb'_append_eq_right
  have h2 : (le32 b0 b1 b2 b3).extractLsb' 16 8 = b2 :=
    (extractLsb'_append_above (b3 ++ b2 ++ b1) b0 8 8).trans
      ((extractLsb'_append_above (b3 ++ b2) b1 0 8).trans BitVec.extractLsb'_append_eq_right)
  have h3 : (le32 b0 b1 b2 b3).extractLsb' 24 8 = b3 :=
    (extractLsb'_append_above (b3 ++ b2 ++ b1) b0 16 8).trans
      ((extractLsb'_append_above (b3 ++ b2) b1 8 8).trans BitVec.extractLsb'_append_eq_left)
  rw [wordBytes, h0, h1, h2, h3]

/-! ### Headers (R91, R93) -/

theorem hdrWord_sizeM1 (c : BitVec 1) (sig : BitVec 3) (m : BitVec 12) : (hdrWord c sig m).extractLsb' 0 12 = m :=
  BitVec.extractLsb'_append_eq_right

theorem hdrWord_sig (c : BitVec 1) (sig : BitVec 3) (m : BitVec 12) : (hdrWord c sig m).extractLsb' 12 3 = sig :=
  (extractLsb'_append_above (c ++ sig) m 0 3).trans BitVec.extractLsb'_append_eq_right

theorem hdrWord_c (c : BitVec 1) (sig : BitVec 3) (m : BitVec 12) : (hdrWord c sig m).extractLsb' 15 1 = c :=
  (extractLsb'_append_above (c ++ sig) m 3 1).trans BitVec.extractLsb'_append_eq_left

/-- A header word is its three fields. -/
theorem hdrWord_fields (h : Half) : hdrWord (h.extractLsb' 15 1) (h.extractLsb' 12 3) (h.extractLsb' 0 12) = h := by
  have hhi : h.extractLsb' 15 1 ++ h.extractLsb' 12 3 = h.extractLsb' 12 (1 + 3) :=
    BitVec.extractLsb'_append_extractLsb'_eq_extractLsb' rfl
  rw [hdrWord, hhi]
  exact append_fields_eq_self (n := 4) (k := 12) h

theorem hdrWord_eq_zero_iff {c : BitVec 1} {sig : BitVec 3} {m : BitVec 12} :
    hdrWord c sig m = 0#16 ↔ c = 0#1 ∧ sig = 0#3 ∧ m = 0#12 := by
  constructor
  · intro h
    have hfield : ∀ k n, (hdrWord c sig m).extractLsb' k n = 0#n := fun k n => by
      rw [h]
      exact BitVec.extractLsb'_zero
    exact ⟨(hdrWord_c c sig m).symm.trans (hfield 15 1), (hdrWord_sig c sig m).symm.trans (hfield 12 3),
      (hdrWord_sizeM1 c sig m).symm.trans (hfield 0 12)⟩
  · rintro ⟨rfl, rfl, rfl⟩
    rfl

theorem decodeHeader_hdrWord (c : BitVec 1) (sig : BitVec 3) (m : BitVec 12) :
    decodeHeader (hdrWord c sig m) =
      if c = 0#1 ∧ sig = 0#3 ∧ m = 0#12 then .endMark
      else if sig = 3#3 then if c = 1#1 then .hdrC m else .hdrR m
      else if c = 1#1 then .hdrCNs sig m else .hdrRNs sig m := by
  simp only [decodeHeader, hdrWord_sizeM1, hdrWord_sig, hdrWord_c, hdrWord_eq_zero_iff]

/-- Settles O6: the two classes of nonzero words are the lemmas about `decodeHeader`, whose bit 15 the clauses name. -/
theorem headerClassification : Obligations.HeaderClassification := by
  unfold Obligations.HeaderClassification
  intro h
  refine ⟨fun h0 => by rw [h0]; rfl, fun h0 hsig => ?conformant, fun h0 hsig => ?nonStandard⟩
  case conformant =>
    rw [decodeHeader_of_conformant h0 hsig]
    exact ⟨fun hc => if_pos hc, fun hc => if_neg (by rw [hc]; decide)⟩
  case nonStandard =>
    rw [decodeHeader_of_nonStandard h0 hsig]
    exact ⟨fun hc => if_pos hc, fun hc => if_neg (by rw [hc]; decide)⟩

theorem hdrWord_toNat (c : BitVec 1) (sig : BitVec 3) (m : BitVec 12) :
    (hdrWord c sig m).toNat = c.toNat * 32768 + sig.toNat * 4096 + m.toNat := by
  have hs : (c ++ sig).toNat = c.toNat * 8 + sig.toNat := by
    rw [BitVec.toNat_append, ← Nat.shiftLeft_add_eq_or_of_lt sig.isLt, Nat.shiftLeft_eq]
  rw [hdrWord, BitVec.toNat_append, ← Nat.shiftLeft_add_eq_or_of_lt m.isLt, Nat.shiftLeft_eq, hs]
  omega

/-- R91 by value: the low byte is `SIZE_M1[7:0]`, the high byte the three fields above it. -/
theorem halfBytes_hdrWord (c : BitVec 1) (sig : BitVec 3) (m : BitVec 12) :
    halfBytes (hdrWord c sig m) =
      [BitVec.ofNat 8 (m.toNat % 256), BitVec.ofNat 8 (c.toNat * 128 + sig.toNat * 16 + m.toNat / 256)] := by
  have hlo : (hdrWord c sig m).toNat % 256 = m.toNat % 256 := by rw [hdrWord_toNat]; omega
  have hhi : (hdrWord c sig m).toNat / 256 = c.toNat * 128 + sig.toNat * 16 + m.toNat / 256 := by
    rw [hdrWord_toNat]; omega
  have hmod : BitVec.ofNat 8 (hdrWord c sig m).toNat = BitVec.ofNat 8 ((hdrWord c sig m).toNat % 256) :=
    BitVec.eq_of_toNat_eq (by simp)
  rw [halfBytes, loByte_eq_ofNat, hiByte_eq_ofNat, hhi, hmod, hlo]

/-- Settles O7: the four forms are one word, by its fields. -/
theorem headerBytes : Obligations.HeaderBytes := by
  unfold Obligations.HeaderBytes
  intro sig m
  have hm := m.isLt
  simp only [encode, halfBytes_hdrWord]
  refine ⟨?_, ?_, ?_, ?_, by omega⟩ <;> simp

/-- Settles O8, by evaluation. -/
theorem sampleWordsDecode : Obligations.SampleWordsDecode := by
  unfold Obligations.SampleWordsDecode
  decide

/-- Settles O25, by evaluation at each of the nine causes. -/
theorem errorWords : Obligations.ErrorWords := by
  unfold Obligations.ErrorWords
  refine ⟨rfl, rfl, rfl, rfl, rfl, rfl, rfl, rfl, rfl, fun c => ?_⟩
  cases c <;> exact ⟨rfl, rfl⟩

/-! ### Encoding what was decoded -/

theorem encode_decodeHeader (h : Half) : encode (decodeHeader h) = halfBytes h := by
  have hfields := hdrWord_fields h
  have hc : h.extractLsb' 15 1 = 0#1 ∨ h.extractLsb' 15 1 = 1#1 := by
    generalize h.extractLsb' 15 1 = c
    revert c
    decide
  rw [← hfields, decodeHeader_hdrWord]
  split
  case isTrue hzero =>
    rw [hdrWord_eq_zero_iff.mpr hzero]
    rfl
  case isFalse =>
    rcases hc with hc | hc <;> split <;> simp_all [encode]

theorem encode_decodeRef (pos : Nat) (f : Half) : encode (decodeRef pos f) = halfBytes f := by
  have hlo := four_le_bfc pos
  have hhi := bfc_le_twelve pos
  unfold decodeRef
  interval_cases bfc pos
  · exact congrArg halfBytes (append_fields_eq_self (n := 4) (k := 12) f)
  · exact congrArg halfBytes (append_fields_eq_self (n := 5) (k := 11) f)
  · exact congrArg halfBytes (append_fields_eq_self (n := 6) (k := 10) f)
  · exact congrArg halfBytes (append_fields_eq_self (n := 7) (k := 9) f)
  · exact congrArg halfBytes (append_fields_eq_self (n := 8) (k := 8) f)
  · exact congrArg halfBytes (append_fields_eq_self (n := 9) (k := 7) f)
  · exact congrArg halfBytes (append_fields_eq_self (n := 10) (k := 6) f)
  · exact congrArg halfBytes (append_fields_eq_self (n := 11) (k := 5) f)
  · exact congrArg halfBytes (append_fields_eq_self (n := 12) (k := 4) f)

theorem op_cases (w : Word) :
    w.extractLsb' 0 2 = 0#2 ∨ w.extractLsb' 0 2 = 1#2 ∨ w.extractLsb' 0 2 = 2#2 ∨ w.extractLsb' 0 2 = 3#2 := by
  generalize w.extractLsb' 0 2 = op
  revert op
  decide

theorem encode_decodeCmd (w : Word) : encode (decodeCmd w) = wordBytes w := by
  have hw := append_fields_eq_self (n := 30) (k := 2) w
  rcases op_cases w with hop | hop | hop | hop
  · rw [decodeCmd_of_op_zero hop, encode, ← hop, hw]
  · rw [decodeCmd_of_op_one hop, encode, ← hop, hw]
  · rw [decodeCmd_of_op_two hop, encode, ← hop, hw]
  · rw [decodeCmd_of_op_three hop, encode, ← hop, hw]

/-! ### Decoding what was encoded -/

/-- The command of each OP keeps the ignored bits it was put together from (R105). -/
theorem decodeCmd_append (r : BitVec 30) :
    decodeCmd (r ++ 0#2) = .cmdNop r ∧ decodeCmd (r ++ 1#2) = .cmdCompress r ∧
      decodeCmd (r ++ 2#2) = .cmdDecompress r ∧ decodeCmd (r ++ 3#2) = .cmdRsvd r := by
  have hop : ∀ op : BitVec 2, (r ++ op).extractLsb' 0 2 = op := fun _ => BitVec.extractLsb'_append_eq_right
  have hr : ∀ op : BitVec 2, (r ++ op).extractLsb' 2 30 = r := fun _ => BitVec.extractLsb'_append_eq_left
  refine ⟨(decodeCmd_of_op_zero (hop _)).trans ?_, (decodeCmd_of_op_one (hop _)).trans ?_,
    (decodeCmd_of_op_two (hop _)).trans ?_, (decodeCmd_of_op_three (hop _)).trans ?_⟩ <;> exact congrArg _ (hr _)

theorem decode_command_wordBytes (w : Word) (rest : List Byte) :
    decode .command (wordBytes w ++ rest) = .token (decodeCmd w) rest := by
  change Decoded.token (decodeCmd (le32 _ _ _ _)) rest = _
  rw [le32_bytes]

theorem decode_header_halfBytes (h : Half) (rest : List Byte) :
    decode .header (halfBytes h ++ rest) = .token (decodeHeader h) rest := by
  change Decoded.token (decodeHeader (le16 _ _)) rest = _
  rw [le16_bytes]

theorem decode_reference_halfBytes (pos : Nat) (h : Half) (rest : List Byte) :
    decode (.reference pos) (halfBytes h ++ rest) = .token (decodeRef pos h) rest := by
  change Decoded.token (decodeRef pos (le16 _ _)) rest = _
  rw [le16_bytes]

theorem decode_raw_append {payload : List Byte} (h : (Instr.raw payload).wellFormed = true) (rest : List Byte) :
    decode (.raw payload.length) (payload ++ rest) = .token (.raw payload) rest := by
  obtain ⟨hlo, hhi⟩ : 1 ≤ payload.length ∧ payload.length ≤ 4096 := by simpa [Instr.wellFormed] using h
  have hne : payload ≠ [] := List.ne_nil_of_length_pos hlo
  simp [decode, hne, hhi]

/-- A back-reference word of `ob` offset bits splits into the fields it was put together from. -/
theorem decodeRef_fields {ob lb : Nat} (d : BitVec ob) (l : BitVec lb) :
    (d ++ l).extractLsb' lb ob = d ∧ (d ++ l).extractLsb' 0 lb = l :=
  ⟨BitVec.extractLsb'_append_eq_left, BitVec.extractLsb'_append_eq_right⟩

/-- The place of a back-reference is a position of its width (R100). -/
theorem place_of_standsAt_ref {i : Instr} {p : Place} {ob d l : Nat} (hi : refOperands i = some (ob, d, l))
    (h : i.standsAt p = true) : ∃ pos, p = .reference pos ∧ bfc pos = ob := by
  cases i <;> cases hi <;> cases p <;> simp_all [Instr.standsAt]

theorem decodeRef_of_encode {i : Instr} {pos ob d l : Nat} (hi : refOperands i = some (ob, d, l))
    (h : bfc pos = ob) (rest : List Byte) :
    decode (.reference pos) (encode i ++ rest) = .token i rest := by
  cases i <;> cases hi
  all_goals
    refine (decode_reference_halfBytes pos _ rest).trans (congrArg (Decoded.token · rest) ?_)
    obtain ⟨hd, hl⟩ := decodeRef_fields _ _
    simp only [decodeRef, h]
    exact congrArg₂ _ hd hl

/-- A non-standard raw header has neither the conformant signature nor the end marker's word (R93). -/
theorem wellFormed_hdrRNs_iff {sig : BitVec 3} {m : BitVec 12} :
    (Instr.hdrRNs sig m).wellFormed = true ↔ sig ≠ 3#3 ∧ ¬(sig = 0#3 ∧ m = 0#12) := by
  simp [Instr.wellFormed, imp_iff_not_or]

/-- Settles O4: each row by its place. A header is classified by the fields its word was made of, a back-reference is
split at its position's width, a command by its OP. -/
theorem decodeOfEncode : Obligations.DecodeOfEncode := by
  unfold Obligations.DecodeOfEncode
  intro i p rest hwf hp
  cases i
  case endMark =>
    obtain rfl : p = .header := by simpa [Instr.standsAt] using hp
    rfl
  case hdrR | hdrC =>
    obtain rfl : p = .header := by simpa [Instr.standsAt] using hp
    rw [encode, decode_header_halfBytes, decodeHeader_hdrWord]
    rfl
  case hdrRNs sig m =>
    obtain rfl : p = .header := by simpa [Instr.standsAt] using hp
    obtain ⟨hsig, hzero⟩ := wellFormed_hdrRNs_iff.mp hwf
    rw [encode, decode_header_halfBytes, decodeHeader_hdrWord, if_neg fun h => hzero h.2, if_neg hsig]
    rfl
  case hdrCNs sig m =>
    obtain rfl : p = .header := by simpa [Instr.standsAt] using hp
    have hsig : sig ≠ 3#3 := by simpa [Instr.wellFormed] using hwf
    rw [encode, decode_header_halfBytes, decodeHeader_hdrWord, if_neg hsig]
    rfl
  case raw payload =>
    obtain rfl : p = .raw payload.length := by simpa [Instr.standsAt] using hp
    exact decode_raw_append hwf rest
  case tag =>
    obtain rfl : p = .tag := by simpa [Instr.standsAt] using hp
    rfl
  case lit =>
    obtain rfl : p = .literal := by simpa [Instr.standsAt] using hp
    rfl
  case cmdNop | cmdCompress | cmdDecompress | cmdRsvd =>
    obtain rfl : p = .command := by simpa [Instr.standsAt] using hp
    rw [encode, decode_command_wordBytes]
    obtain ⟨hnop, hcompress, hdecompress, hrsvd⟩ := decodeCmd_append ‹_›
    simp only [hnop, hcompress, hdecompress, hrsvd]
  all_goals
    obtain ⟨pos, rfl, hb⟩ := place_of_standsAt_ref rfl hp
    exact decodeRef_of_encode rfl hb rest

/-! ### What the decoder accepts -/

theorem decodeHeader_wellFormed (h : Half) : (decodeHeader h).wellFormed = true := by
  by_cases h0 : h = 0#16
  · rw [h0]
    rfl
  by_cases hsig : h.extractLsb' 12 3 = 3#3
  · rw [decodeHeader_of_conformant h0 hsig]
    split <;> rfl
  · rw [decodeHeader_of_nonStandard h0 hsig]
    split
    case isTrue => simpa [Instr.wellFormed] using hsig
    case isFalse hc =>
      have hbit : h.extractLsb' 15 1 = 0#1 := by
        rw [BitVec.getLsbD_eq_extractLsb'] at hc
        generalize h.extractLsb' 15 1 = c at hc
        revert c
        decide
      have hfields : ¬(h.extractLsb' 12 3 = 0#3 ∧ h.extractLsb' 0 12 = 0#12) := fun ⟨hs, hm⟩ => by
        have := hdrWord_fields h
        rw [hbit, hs, hm] at this
        exact h0 this.symm
      exact wellFormed_hdrRNs_iff.mpr ⟨hsig, hfields⟩

theorem decodeHeader_standsAt (h : Half) : (decodeHeader h).standsAt .header = true := by
  unfold decodeHeader
  dsimp only
  split
  · rfl
  · split <;> split <;> rfl

theorem decodeRef_wellFormed_standsAt (pos : Nat) (f : Half) :
    (decodeRef pos f).wellFormed = true ∧ (decodeRef pos f).standsAt (.reference pos) = true := by
  have hlo := four_le_bfc pos
  have hhi := bfc_le_twelve pos
  have hb : ∃ n, bfc pos = n := ⟨_, rfl⟩
  obtain ⟨n, hn⟩ := hb
  rw [hn] at hlo hhi
  unfold decodeRef
  interval_cases n <;> simp [hn, Instr.wellFormed, Instr.standsAt]

theorem decodeCmd_wellFormed_standsAt (w : Word) :
    (decodeCmd w).wellFormed = true ∧ (decodeCmd w).standsAt .command = true := by
  unfold decodeCmd
  split <;> exact ⟨rfl, rfl⟩

/-- Settles O5: each place reads its bytes into one word or list, which the instruction keeps whole. -/
theorem encodeOfDecode : Obligations.EncodeOfDecode := by
  unfold Obligations.EncodeOfDecode
  intro p bytes rest i h
  unfold decode at h
  split at h
  case h_1 =>
    split at h
    case h_1 b0 b1 b2 b3 tail =>
      obtain ⟨rfl, rfl⟩ : decodeCmd (le32 b0 b1 b2 b3) = i ∧ tail = rest := by simpa using h
      rw [encode_decodeCmd, wordBytes_le32]
      exact ⟨rfl, decodeCmd_wellFormed_standsAt _⟩
    case h_2 => cases h
  case h_2 =>
    split at h
    case h_1 b0 b1 tail =>
      obtain ⟨rfl, rfl⟩ : decodeHeader (le16 b0 b1) = i ∧ tail = rest := by simpa using h
      rw [encode_decodeHeader, halfBytes_le16]
      exact ⟨rfl, decodeHeader_wellFormed _, decodeHeader_standsAt _⟩
    case h_2 => cases h
  case h_3 size =>
    split at h
    case isTrue => cases h
    case isFalse hsize =>
      split at h
      case isTrue => cases h
      case isFalse hlen =>
        obtain ⟨rfl, rfl⟩ : Instr.raw (bytes.take size) = i ∧ bytes.drop size = rest := by simpa using h
        have htake : (bytes.take size).length = size := List.length_take_of_le (not_lt.mp hlen)
        simp only [Bool.or_eq_true, decide_eq_true_eq, not_or, not_lt] at hsize
        exact ⟨(List.take_append_drop size bytes).symm, by simp [Instr.wellFormed, htake, hsize],
          by simp [Instr.standsAt, htake]⟩
  case h_4 | h_5 =>
    split at h
    case h_1 => cases h; exact ⟨rfl, rfl, rfl⟩
    case h_2 => cases h
  case h_6 pos =>
    split at h
    case h_1 b0 b1 tail =>
      obtain ⟨rfl, rfl⟩ : decodeRef pos (le16 b0 b1) = i ∧ tail = rest := by simpa using h
      rw [encode_decodeRef, halfBytes_le16]
      exact ⟨rfl, decodeRef_wellFormed_standsAt pos _⟩
    case h_2 => cases h

end Sys2Proof

/-! ## The register interface and reset (R21 to R30, R60, R270) -/

namespace Sys2Proof.Machine

/-! ### The step that takes a host access -/

theorem step_of_readIn {s : State} {a : Word} {q : List HostAction} (h : s.host = .readIn a :: q) :
    step s = readInput a { s with host := q } := by
  simp [step, fetch, h, fetchHost]

theorem step_of_readOut {s : State} {a : Word} {q : List HostAction} (h : s.host = .readOut a :: q) :
    step s = readOutput a { s with host := q } := by
  simp [step, fetch, h, fetchHost]

theorem step_of_reset {s : State} {q : List HostAction} (h : s.host = .reset :: q) :
    step s = .next (resetBlock { s with host := q }) := by
  simp [step, fetch, h, fetchHost]

theorem step_of_wait {s : State} {q : List HostAction} (h : s.host = .wait :: q) :
    step s = (fetchEngine { s with host := q }).answer := by
  simp [step_eq_fetch_answer, fetch, h, fetchHost]

/-- Settles O10: the word's bytes decode to its command, and the step is the command's meaning. -/
theorem stepRunsCommand : Obligations.StepRunsCommand := by
  unfold Obligations.StepRunsCommand
  intro s w q hq
  refine ⟨?_, step_of_writeCmd hq⟩
  simpa using decode_command_wordBytes w []

/-! ### Reads and writes of a register -/

theorem readRegister_exact {n : Nat} {s : State} (h : n ≠ 5 ∨ s.engine ≠ .busy) :
    readRegister n s = giveHost (regValue n s) s :=
  if_neg fun ⟨hn, hb⟩ => h.elim (· hn) (· hb)

theorem regValue_of_eight_le {n : Nat} (h : 8 ≤ n) (s : State) : regValue n s = 0 := by
  unfold regValue
  split
  case h_8 => rfl
  all_goals omega

/-- What a register write does where it answers a next state: CFG or IN_LEN while not BUSY, else nothing
(R21, R23, R26, R278). -/
theorem writeRegister_eq_next {n : Nat} {v : Word} {s t : State} (h : writeRegister n v s = .next t) :
    (n = 1 ∧ s.engine ≠ .busy ∧ t = { s with cfg := v &&& 0x1#32 }) ∨
      (n = 4 ∧ s.engine ≠ .busy ∧ v.toNat ≤ s.inCap.toNat ∧ t = { s with inLen := v }) ∨
      (n ≠ 1 ∧ n ≠ 4 ∧ t = s) := by
  unfold writeRegister at h
  split at h
  case h_1 =>
    obtain ⟨hb, ⟨⟩⟩ := whenNotBusy_eq_next h
    exact .inl ⟨rfl, hb, rfl⟩
  case h_2 =>
    obtain ⟨hb, h⟩ := whenNotBusy_eq_next h
    split at h
    · cases h
    · cases h
      exact .inr (.inl ⟨rfl, hb, not_lt.mp ‹_›, rfl⟩)
  case h_3 h1 h4 =>
    cases h
    exact .inr (.inr ⟨h1, h4, rfl⟩)

theorem writeRegister_ignored {n : Nat} (h1 : n ≠ 1) (h4 : n ≠ 4) (v : Word) (s : State) :
    writeRegister n v s = .next s := by
  unfold writeRegister
  split
  · exact absurd rfl h1
  · exact absurd rfl h4
  · rfl

theorem writeRegister_cfg_of_not_busy {s : State} (h : s.engine ≠ .busy) (v : Word) :
    writeRegister 1 v s = .next { s with cfg := v &&& 0x1#32 } :=
  whenNotBusy_of_not_busy h _

theorem writeRegister_inLen_of_not_busy {s : State} (h : s.engine ≠ .busy) (v : Word) :
    writeRegister 4 v s =
      if s.inCap.toNat < v.toNat then .refused .inLenOverCap else .next { s with inLen := v } :=
  whenNotBusy_of_not_busy h _

/-- Settles O57: the write of IN_LEN is past BUSY, and its range test decides. -/
theorem inLenWithinCapacity : Obligations.InLenWithinCapacity := by
  unfold Obligations.InLenWithinCapacity
  intro s v q hq hidle
  rw [step_of_writeReg_succ hq, writeRegister_inLen_of_not_busy (s := { s with host := q }) hidle]
  exact ⟨fun hle => if_neg hle.not_gt, fun hlt => if_pos hlt⟩

/-! ### The bits of a command that count -/

/-- The meaning of a command depends on its OP alone (R22, R105). -/
theorem exec_decodeCmd_congr {v w : Word} (h : v.extractLsb' 0 2 = w.extractLsb' 0 2) (s : State) :
    exec (decodeCmd v) s = exec (decodeCmd w) s := by
  rcases op_cases w with hw | hw | hw | hw
  · rw [decodeCmd_of_op_zero hw, decodeCmd_of_op_zero (h.trans hw)]; rfl
  · rw [decodeCmd_of_op_one hw, decodeCmd_of_op_one (h.trans hw)]; rfl
  · rw [decodeCmd_of_op_two hw, decodeCmd_of_op_two (h.trans hw)]; rfl
  · rw [decodeCmd_of_op_three hw, decodeCmd_of_op_three (h.trans hw)]; rfl

theorem op_and_three (v : Word) : (v &&& 3#32).extractLsb' 0 2 = v.extractLsb' 0 2 := by
  rw [BitVec.extractLsb'_and]
  exact BitVec.and_allOnes

/-- Settles O55: reserved bits are masked away by `regValue`, and a write of CMD acts by its OP. -/
theorem reservedReadZero : Obligations.ReservedReadZero := by
  unfold Obligations.ReservedReadZero
  refine ⟨fun s n hn => regValue_of_eight_le hn s, fun s => ?masks, fun s n q hq hn => ?read,
    fun s n v q hq hn => ?ignored, fun s v q hq hidle => ?cfg, fun s v q => ?command, fun s v q hq hidle hop => ?rsvd⟩
  case masks =>
    refine ⟨rfl, ?_, ?_, ?_, ?_⟩ <;> simp only [regValue, BitVec.and_assoc] <;> exact BitVec.and_zero
  case read =>
    rw [step_of_readReg hq, readRegister_exact (s := { s with host := q }) hn]
    rfl
  case ignored =>
    obtain ⟨h0, h1, h4⟩ : n ≠ 0 ∧ n ≠ 1 ∧ n ≠ 4 := by simpa using hn
    obtain ⟨m, rfl⟩ := Nat.exists_eq_succ_of_ne_zero h0
    rw [step_of_writeReg_succ hq, writeRegister_ignored h1 h4]
  case cfg =>
    rw [step_of_writeReg_succ hq, writeRegister_cfg_of_not_busy (s := { s with host := q }) hidle]
  case command =>
    rw [step_of_writeCmd rfl, step_of_writeCmd rfl, exec_decodeCmd_congr (op_and_three v).symm]
  case rsvd =>
    rw [step_of_writeCmd hq, decodeCmd_of_op_three hop]
    exact exec_cmdRsvd_of_not_busy (s := { s with host := q }) hidle _

/-! ### Reset (R270) -/

theorem regValue_eq_zero {t : State} (hcfg : t.cfg = 0) (hstatus : t.status = 0) (herr : t.err = 0)
    (hinLen : t.inLen = 0) (houtLen : t.outLen = 0) (hip : t.faultIp = 0) (hpos : t.faultPos = 0) (n : Nat) :
    regValue n t = 0 := by
  unfold regValue
  split <;> simp [*]

/-- Every register of a reset block is that of the state after reset; only the parameters and the host's part are its
own. -/
theorem resetBlock_atReset (s : State) : (resetBlock s).atReset :=
  ⟨regValue_eq_zero rfl rfl rfl rfl rfl rfl rfl, rfl, rfl, rfl, rfl, rfl, rfl, rfl, rfl, BitVec.extractLsb'_zero,
    rfl, rfl, rfl, rfl, rfl, rfl, rfl, rfl, rfl, rfl, rfl, rfl, rfl, rfl, rfl, rfl, rfl, rfl, rfl,
    fun _ => ⟨rfl, rfl, rfl⟩⟩

/-- Settles O59: power-up is the reset of itself, and a reset in a state is `resetBlock`. -/
theorem resetRestoresBlock : Obligations.ResetRestoresBlock := by
  unfold Obligations.ResetRestoresBlock
  refine ⟨resetBlock_atReset State.reset, fun s q hq => ?_⟩
  exact ⟨_, step_of_reset hq, resetBlock_atReset _, rfl, rfl, rfl⟩

/-! ### The host's reads of the buffers -/

theorem readInput_loaded {s : State} {a : Word} {b : Byte} (h : a.toNat < s.inCap.toNat)
    (hb : s.inBuf.read a.toNat = some b) : readInput a s = .next (giveHost (b.setWidth 32) s) := by
  simp [readInput, h, hb]

theorem readInput_unloaded {s : State} {a : Word} (h : a.toNat < s.inCap.toNat)
    (hnone : s.inBuf.read a.toNat = none) : readInput a s = .next (giveFreeByte s) := by
  simp [readInput, h, hnone]

theorem readOutput_of_result {s : State} {a : Word} {b : Byte} (h : a.toNat < s.outCap.toNat)
    (hdone : s.engine = .done) (hlen : a.toNat < s.outLen.toNat) (hb : s.outBuf.read a.toNat = some b) :
    readOutput a s = .next (giveHost (b.setWidth 32) s) := by
  simp [readOutput, h, hdone, hlen, hb]

theorem readOutput_free {s : State} {a : Word} (h : a.toNat < s.outCap.toNat)
    (hfree : s.engine ≠ .done ∨ s.outLen.toNat ≤ a.toNat) : readOutput a s = .next (giveFreeByte s) := by
  rw [readOutput, if_neg h.not_ge, if_neg fun ⟨hdone, hlen⟩ => hfree.elim (· hdone) hlen.not_ge]

/-- Settles O60: each read is the read of the buffer or register with the action taken off the queue. -/
theorem hostReadsOfOutput : Obligations.HostReadsOfOutput := by
  unfold Obligations.HostReadsOfOutput
  refine ⟨fun s a q b hq ha hdone hlen hb => ?result, fun s a q hq ha hfree => ?free, fun s q hq hbusy => ?outLen,
    fun s a q hq ha => ⟨fun b hb => ?loaded, fun hnone => ?unloaded⟩⟩
  case result =>
    rw [step_of_readOut hq, readOutput_of_result (s := { s with host := q }) ha hdone hlen hb]
    rfl
  case free =>
    rw [step_of_readOut hq, readOutput_free (s := { s with host := q }) ha hfree]
    rfl
  case outLen =>
    have hread : readRegister 5 { s with host := q } = giveFreeWord { s with host := q } := if_pos ⟨rfl, hbusy⟩
    rw [step_of_readReg hq, hread]
    rfl
  case loaded =>
    rw [step_of_readIn hq, readInput_loaded (s := { s with host := q }) ha hb]
    rfl
  case unloaded =>
    rw [step_of_readIn hq, readInput_unloaded (s := { s with host := q }) ha hnone]
    rfl

/-! ### The start of a command -/

theorem exec_cmdDecompress_eq_next {s t : State} {r : BitVec 30} (h : exec (.cmdDecompress r) s = .next t) :
    s.engine ≠ .busy ∧ s.inputLoaded = true ∧ t = startDecompress s := by
  obtain ⟨hidle, -, hloaded, ⟨⟩⟩ := whenCommandMayStart_eq_next h
  exact ⟨hidle, hloaded, rfl⟩

theorem exec_cmdCompress_eq_next {s t : State} {r : BitVec 30} (h : exec (.cmdCompress r) s = .next t) :
    s.engine ≠ .busy ∧ s.inputLoaded = true ∧ t = startCompress s := by
  obtain ⟨hidle, -, hloaded, ⟨⟩⟩ := whenCommandMayStart_eq_next h
  exact ⟨hidle, hloaded, rfl⟩

/-- Settles O41: NOP and RSVD answer the state itself, and the two starts write the registers named. -/
theorem commandFrame : Obligations.CommandFrame := by
  unfold Obligations.CommandFrame
  intro i s t r h
  have hnop : i = .cmdNop r ∨ i = .cmdRsvd r → t = s := by
    rintro (rfl | rfl) <;> obtain ⟨-, ⟨⟩⟩ := whenNotBusy_eq_next h <;> rfl
  have hdec : i = .cmdDecompress r → t = startDecompress s := by
    rintro rfl
    exact (exec_cmdDecompress_eq_next h).2.2
  have hcomp : i = .cmdCompress r → t = startCompress s := by
    rintro rfl
    exact (exec_cmdCompress_eq_next h).2.2
  refine ⟨hnop, fun hi => by rw [hdec hi]; rfl, fun hi => by rw [hcomp hi]; rfl, fun hi a => ?_⟩
  rcases hi with hi | hi | hi | hi
  · rw [hnop (.inl hi)]; exact ⟨rfl, rfl, rfl⟩
  · rw [hnop (.inr hi)]; exact ⟨rfl, rfl, rfl⟩
  · rw [hdec hi]; exact ⟨rfl, rfl, rfl⟩
  · rw [hcomp hi]; exact ⟨rfl, rfl, rfl⟩

/-! ### Reserved bits (R23 to R30) -/

/-- The reserved bits of STATUS as a field. -/
theorem status_reserved_iff (w : Word) : w &&& 0xFFFFFFF0#32 = 0#32 ↔ w.extractLsb' 4 28 = 0#28 := by
  have hmask : w &&& 0xFFFFFFF0#32 = w.extractLsb' 4 28 ++ 0#4 := by
    conv_lhs => rw [← append_fields_eq_self (n := 28) (k := 4) w]
    rw [show (0xFFFFFFF0#32 : Word) = BitVec.allOnes 28 ++ 0#4 from rfl, BitVec.and_append, BitVec.and_allOnes,
      BitVec.and_zero]
  rw [hmask]
  constructor
  · intro h
    calc w.extractLsb' 4 28
        = (w.extractLsb' 4 28 ++ 0#4).extractLsb' 4 28 := BitVec.extractLsb'_append_eq_left.symm
      _ = 0#28 := by rw [h]; rfl
  · intro h
    rw [h]
    rfl

theorem statusStart_congr {w v : Word} (hw : w &&& 0xFFFFFFF0#32 = 0#32) (hv : v &&& 0xFFFFFFF0#32 = 0#32)
    (op : BitVec 2) (e : EngineState) : statusStart w op e = statusStart v op e := by
  rw [statusStart, statusStart, (status_reserved_iff w).mp hw, (status_reserved_iff v).mp hv]

/-- The clauses of `registersWf` (R23 to R26, R29, R30). -/
theorem registersWf_iff {s : State} :
    s.registersWf = true ↔
      s.cfg &&& 0xFFFFFFFE#32 = 0#32 ∧ s.status &&& 0xFFFFFFF0#32 = 0#32 ∧ s.err &&& 0xFFFFFF0C#32 = 0#32 ∧
        s.faultPos &&& 0xFFFFE000#32 = 0#32 ∧ s.inLen.toNat ≤ s.inCap.toNat ∧
        (s.engine = .busy → s.lastOp = 1#2 ∨ s.lastOp = 2#2) := by
  simp only [State.registersWf, Bool.and_eq_true, Bool.or_eq_true, beq_iff_eq, bne_iff_ne, decide_eq_true_eq, and_assoc,
    or_assoc, imp_iff_not_or, ne_eq]

/-- Settles O31: both states start as `startDecompress` or `startCompress` leave them, which read of the old state CFG,
IN_LEN and the reserved bits of STATUS alone. -/
theorem commandsStartClean : Obligations.CommandsStartClean := by
  unfold Obligations.CommandsStartClean
  intro s u t v r hlen hcfg hs hu
  obtain ⟨-, hss, -⟩ := registersWf_iff.mp hs
  obtain ⟨-, hus, -⟩ := registersWf_iff.mp hu
  have hstrict : s.strict = u.strict := by rw [State.strict, State.strict, hcfg]
  refine ⟨fun ht hv => ?decompress, fun ht hv => ?compress⟩
  case decompress =>
    obtain ⟨-, -, rfl⟩ := exec_cmdDecompress_eq_next ht
    obtain ⟨-, -, rfl⟩ := exec_cmdDecompress_eq_next hv
    exact ⟨statusStart_congr hss hus _ _, rfl, rfl, rfl, rfl, hstrict, rfl, rfl, rfl, rfl, rfl, rfl, rfl, rfl, rfl, rfl⟩
  case compress =>
    obtain ⟨-, -, rfl⟩ := exec_cmdCompress_eq_next ht
    obtain ⟨-, -, rfl⟩ := exec_cmdCompress_eq_next hv
    exact ⟨statusStart_congr hss hus _ _, rfl, rfl, rfl, rfl, hstrict, rfl, rfl, rfl, rfl, rfl, rfl, rfl, rfl⟩

end Sys2Proof.Machine

/-! ## What a step can do -/

namespace Sys2Proof.Machine

/-! ### Appending to OUT (R62, R69, R144) -/

/-- OUT and OLEN of `u` are those of `s` after `n` bytes were appended: every other byte of OUT is unchanged, and OLEN
did not wrap around. -/
structure OutAppends (n : Nat) (s u : State) : Prop where
  outCap : u.outCap = s.outCap
  olen : u.olen.toNat = s.olen.toNat + n
  room : s.olen.toNat ≤ s.outCap.toNat → u.olen.toNat ≤ u.outCap.toNat
  other : ∀ a, a < s.olen.toNat ∨ s.olen.toNat + n ≤ a → u.outBuf.read a = s.outBuf.read a
  written : ∀ a, s.olen.toNat ≤ a → a < s.olen.toNat + n → (u.outBuf.read a).isSome = true
  wf : s.outBuf.wf = true ∧ s.outBuf.below s.outCap.toNat = true →
    u.outBuf.wf = true ∧ u.outBuf.below u.outCap.toNat = true

theorem OutAppends.refl (s : State) : OutAppends 0 s s where
  outCap := rfl
  olen := rfl
  room := id
  other _ _ := rfl
  written a hlo hhi := by omega
  wf := id

theorem OutAppends.trans {n m : Nat} {s u v : State} (hu : OutAppends n s u) (hv : OutAppends m u v) :
    OutAppends (n + m) s v where
  outCap := hv.outCap.trans hu.outCap
  olen := by rw [hv.olen, hu.olen, Nat.add_assoc]
  room hs := hv.room (hu.room hs)
  other a ha := by
    rw [hv.other a (by rw [hu.olen]; omega), hu.other a (by omega)]
  written a hlo hhi := by
    by_cases ha : a < s.olen.toNat + n
    · rw [hv.other a (.inl (by rw [hu.olen]; exact ha))]
      exact hu.written a hlo ha
    · exact hv.written a (by rw [hu.olen]; omega) (by rw [hu.olen]; omega)
  wf hs := hv.wf (hu.wf hs)

/-- Only OUT, OLEN and OUT_CAP of the later state count. -/
theorem OutAppends.congr {n : Nat} {s u v : State} (h : OutAppends n s u) (hcap : v.outCap = u.outCap)
    (holen : v.olen = u.olen) (hbuf : v.outBuf = u.outBuf) : OutAppends n s v where
  outCap := hcap.trans h.outCap
  olen := holen ▸ h.olen
  room := holen ▸ hcap ▸ h.room
  other := hbuf ▸ h.other
  written := hbuf ▸ h.written
  wf := hbuf ▸ hcap ▸ h.wf

/-- Where OUT held a value at every address below OLEN, it does after appending. -/
theorem OutAppends.listed {n : Nat} {s u : State} (h : OutAppends n s u) (hs : s.outBuf.listed 0 s.olen.toNat) :
    u.outBuf.listed 0 u.olen.toNat := by
  intro k hk
  rw [h.olen] at hk
  rw [Nat.zero_add]
  by_cases hold : k < s.olen.toNat
  · rw [h.other k (.inl hold)]
    simpa using hs k hold
  · exact h.written k (not_lt.mp hold) hk

/-- `u` is `s` after `n` bytes were appended to OUT, and nothing else changed. -/
structure Appends (n : Nat) (s u : State) : Prop where
  out : OutAppends n s u
  frame : u = { s with outBuf := u.outBuf, olen := u.olen }

theorem Appends.refl (s : State) : Appends 0 s s := ⟨.refl s, rfl⟩

theorem Appends.trans {n m : Nat} {s u v : State} (hu : Appends n s u) (hv : Appends m u v) : Appends (n + m) s v where
  out := hu.out.trans hv.out
  frame := by
    have hframe := hu.frame
    rw [hv.frame, hframe]

theorem putOut_appends {s : State} (hroom : s.olen.toNat < s.outCap.toNat) (b : Byte) : Appends 1 s (putOut b s) where
  frame := rfl
  out.outCap := rfl
  out.olen := putOut_olen_toNat b s hroom
  out.room _ := by rw [putOut_olen_toNat b s hroom]; exact hroom
  out.other a ha := Memory.read_write_other _ _ (by omega)
  out.written a hlo hhi := by
    obtain rfl : a = s.olen.toNat := by omega
    simp
  out.wf := putOut_outWf b hroom

theorem appendAll_appends {bs : List Byte} {s u : State} (h : appendAll bs s = .next u) : Appends bs.length s u := by
  induction bs generalizing s with
  | nil =>
    cases h
    exact .refl _
  | cons b bs ih =>
    obtain ⟨v, hb, hbs⟩ := andThen_eq_next h
    obtain ⟨hroom, rfl⟩ := append_eq_next hb
    rw [List.length_cons, Nat.add_comm]
    exact (putOut_appends hroom b).trans (ih hbs)

theorem copyBytes_appends {d l : Nat} {s u : State} (h : copyBytes d l s = .next u) : Appends l s u := by
  induction l generalizing s with
  | zero =>
    cases h
    exact .refl _
  | succ l ih =>
    obtain ⟨-, b, -, hroom, hrest⟩ := copyBytes_succ_eq_next h
    rw [Nat.add_comm]
    exact (putOut_appends hroom b).trans (ih hrest)

/-- Settles O21: the copy completes, each byte is the one `d` before it, and so repeats the window. -/
theorem copyIsByteSerial : Obligations.CopyIsByteSerial := by
  unfold Obligations.CopyIsByteSerial
  intro s d l hd0 hd hw hroom
  obtain ⟨t, hcopy⟩ := copyBytes_succeeds hd0 hd hw hroom
  obtain ⟨hframe, -⟩ := copyBytes_eq_next hcopy
  exact ⟨t, hcopy, hframe, fun k hk => copyBytes_read_eq_back hcopy hd0 hk,
    fun k hk => copyBytes_read_eq_window hcopy hd0 hd hk⟩

/-! ### The tokens (R140 to R144, R173 to R176) -/

theorem rawTruncated_eq_none_iff {s : State} : rawTruncated s = none ↔ s.chunkEnd.toNat ≤ s.inLen.toNat := by
  simp [rawTruncated]

theorem litMalformed_eq_none_iff {s : State} : litMalformed s = none ↔ s.pos.toNat < 4096 := by
  simp [litMalformed]

theorem refMalformed_eq_none_iff {d l : Nat} {s : State} (hd : d ≠ 0) :
    refMalformed d l s = none ↔ d ≤ s.pos.toNat ∧ s.pos.toNat + l ≤ 4096 := by
  unfold refMalformed
  rw [if_neg hd]
  split
  · simp; omega
  · split
    · simp; omega
    · simp; omega

/-- A check of the decoder that can raise no error but a recorded one: the zero displacement is not among them (C6). -/
def Recorded (c : Option Cause) : Prop := c ≠ some .zeroDisplacement

theorem signatureError_recorded (sig : BitVec 3) (s : State) : Recorded (signatureError sig s) := by
  unfold signatureError
  split <;> nofun

theorem rawTruncated_recorded (s : State) : Recorded (rawTruncated s) := by
  unfold rawTruncated
  split <;> nofun

theorem byteTruncated_recorded (s : State) : Recorded (byteTruncated s) := by
  unfold byteTruncated
  split <;> nofun

theorem refTruncated_recorded (s : State) : Recorded (refTruncated s) := by
  unfold refTruncated
  split
  · nofun
  · split <;> nofun

theorem litMalformed_recorded (s : State) : Recorded (litMalformed s) := by
  unfold litMalformed
  split <;> nofun

theorem refMalformed_recorded {d : Nat} (hd : d ≠ 0) (l : Nat) (s : State) : Recorded (refMalformed d l s) := by
  unfold refMalformed
  rw [if_neg hd]
  split
  · nofun
  · split <;> nofun

/-- What a token can do in its place: raise a recorded error, or what its rule says. -/
inductive TokenStep (s : State) : Instr → State → Prop where
  | failed {i : Instr} {c : Cause} (hd : s.decoding = true) (hc : c ≠ .zeroDisplacement) : TokenStep s i (takeError c s)
  | endMark (h : s.atHeader = true) : TokenStep s .endMark (finishDecompress { s with ip := s.ip + 2 })
  | header {i : Instr} {c : Bool} {m : BitVec 12} (hi : i.standsAt .header = true) (h : s.atHeader = true) :
      TokenStep s i (chunkSetup c m s)
  | raw {payload : List Byte} {u : State} (h : s.atRaw payload.length = true) (hin : s.chunkEnd.toNat ≤ s.inLen.toNat)
      (happ : appendAll payload s = .next u) :
      TokenStep s (.raw payload) { u with pos := s.size, ip := s.chunkEnd, dstate := .hdr }
  | tag {b : Byte} (h : s.atTag = true) (hin : s.ip.toNat < s.inLen.toNat) :
      TokenStep s (.tag b) { s with tag := b, ip := s.ip + 1, idx := 0, dstate := .item }
  | lit {b : Byte} (h : s.atLiteral = true) (hin : s.ip.toNat < s.inLen.toNat) (hpos : s.pos.toNat < 4096)
      (hroom : s.olen.toNat < s.outCap.toNat) :
      TokenStep s (.lit b) { putOut b s with pos := s.pos + 1, ip := s.ip + 1, idx := s.idx + 1 }
  | ref {i : Instr} {ob d l : Nat} {u : State} (hi : refOperands i = some (ob, d, l)) (h : s.atRef ob = true)
      (hce : s.ip.toNat + 2 ≤ s.chunkEnd.toNat) (hin : s.ip.toNat + 2 ≤ s.inLen.toNat) (hd : d ≤ s.pos.toNat)
      (hpos : s.pos.toNat + l ≤ 4096) (hcopy : copyBytes d l s = .next u) :
      TokenStep s i { u with pos := s.pos + BitVec.ofNat 13 l, ip := s.ip + 2, idx := s.idx + 1 }

/-- A checked token raises the check's error, or passes it. -/
theorem TokenStep.of_checkedBy {s t : State} {i : Instr} {c : Option Cause} {a : Answer} (hd : s.decoding = true)
    (hc : Recorded c) (h : checkedBy c s a = .next t) (hok : c = none → a = .next t → TokenStep s i t) :
    TokenStep s i t := by
  obtain ⟨e, rfl, rfl⟩ | ⟨hnone, ha⟩ := checkedBy_eq_next h
  · exact .failed hd fun he => hc (congrArg some he)
  · exact hok hnone ha

theorem decoding_of_atHeader {s : State} (h : s.atHeader = true) : s.decoding = true := (atHeader_iff.mp h).1

theorem decoding_of_atRaw {s : State} {n : Nat} (h : s.atRaw n = true) : s.decoding = true := (atRaw_iff.mp h).1

theorem decoding_of_atTag {s : State} (h : s.atTag = true) : s.decoding = true := (atTag_iff.mp h).1

theorem decoding_of_atItem {s : State} (h : s.atItem = true) : s.decoding = true := (atItem_iff.mp h).1

theorem atItem_of_atLiteral {s : State} (h : s.atLiteral = true) : s.atItem = true := (atLiteral_iff.mp h).1

theorem atItem_of_atRef {s : State} {ob : Nat} (h : s.atRef ob = true) : s.atItem = true := (atRef_iff.mp h).1

theorem exec_endMark_eq_next {s t : State} (h : exec .endMark s = .next t) :
    s.atHeader = true ∧ t = finishDecompress { s with ip := s.ip + 2 } := by
  obtain ⟨hat, ⟨⟩⟩ := inPlace_eq_next h
  exact ⟨hat, rfl⟩

theorem exec_hdrR_eq_next {s t : State} {m : BitVec 12} (h : exec (.hdrR m) s = .next t) :
    s.atHeader = true ∧ t = chunkSetup false m s := by
  obtain ⟨hat, ⟨⟩⟩ := inPlace_eq_next h
  exact ⟨hat, rfl⟩

theorem exec_hdrC_eq_next {s t : State} {m : BitVec 12} (h : exec (.hdrC m) s = .next t) :
    s.atHeader = true ∧ t = chunkSetup true m s := by
  obtain ⟨hat, ⟨⟩⟩ := inPlace_eq_next h
  exact ⟨hat, rfl⟩

theorem TokenStep.of_nonStandard {s t : State} {i : Instr} {sig : BitVec 3} {m : BitVec 12} {c : Bool}
    (hi : i.standsAt .header = true)
    (h : inPlace s.atHeader (checkedBy (signatureError sig s) s (.next (chunkSetup c m s))) = .next t) :
    TokenStep s i t := by
  obtain ⟨hat, h⟩ := inPlace_eq_next h
  refine .of_checkedBy (decoding_of_atHeader hat) (signatureError_recorded sig s) h fun _ hnext => ?_
  cases hnext
  exact .header hi hat

theorem TokenStep.of_raw {s t : State} {payload : List Byte} (h : exec (.raw payload) s = .next t) :
    TokenStep s (.raw payload) t := by
  obtain ⟨hat, hchecked⟩ := inPlace_eq_next h
  refine .of_checkedBy (decoding_of_atRaw hat) (rawTruncated_recorded s) hchecked fun hnone hnext => ?_
  have hin := rawTruncated_eq_none_iff.mp hnone
  obtain ⟨u, happ, -⟩ := andThen_eq_next hnext
  rw [exec_raw_of_appendAll hat hin happ] at h
  cases h
  exact .raw hat hin happ

theorem TokenStep.of_tag {s t : State} {b : Byte} (h : exec (.tag b) s = .next t) : TokenStep s (.tag b) t := by
  obtain ⟨hat, h⟩ := inPlace_eq_next h
  refine .of_checkedBy (decoding_of_atTag hat) (byteTruncated_recorded s) h fun hin hnext => ?_
  cases hnext
  exact .tag hat (byteTruncated_eq_none_iff.mp hin)

theorem TokenStep.of_lit {s t : State} {b : Byte} (h : exec (.lit b) s = .next t) : TokenStep s (.lit b) t := by
  obtain ⟨hat, h⟩ := inPlace_eq_next h
  have hd := decoding_of_atItem (atItem_of_atLiteral hat)
  refine .of_checkedBy hd (byteTruncated_recorded s) h fun hin h => ?_
  refine .of_checkedBy hd (litMalformed_recorded s) h fun hpos hnext => ?_
  obtain ⟨u, happ, ⟨⟩⟩ := andThen_eq_next hnext
  obtain ⟨hroom, rfl⟩ := append_eq_next happ
  exact .lit hat (byteTruncated_eq_none_iff.mp hin) (litMalformed_eq_none_iff.mp hpos) hroom

theorem TokenStep.of_ref {s t : State} {i : Instr} {ob d l : Nat} (hi : refOperands i = some (ob, d, l))
    (hexec : exec i s = .next t) : TokenStep s i t := by
  have hd0 := ne_zero_of_refOperands hi
  obtain ⟨hat, h⟩ := inPlace_eq_next ((exec_of_refOperands hi s).symm.trans hexec)
  have hd := decoding_of_atItem (atItem_of_atRef hat)
  refine .of_checkedBy hd (refTruncated_recorded s) h fun htrunc h => ?_
  refine .of_checkedBy hd (refMalformed_recorded hd0 l s) h fun hmal hnext => ?_
  obtain ⟨u, hcopy, -⟩ := andThen_eq_next hnext
  rw [exec_ref_of_copyBytes hi hat htrunc hmal hcopy] at hexec
  cases hexec
  obtain ⟨hce, hin⟩ := refTruncated_eq_none_iff.mp htrunc
  obtain ⟨hdp, hpos⟩ := (refMalformed_eq_none_iff hd0).mp hmal
  exact .ref hi hat hce hin hdp hpos hcopy

/-- Every token but a command does what `TokenStep` says. -/
theorem TokenStep.of_exec {s t : State} {i : Instr} {p : Place} (hi : i.standsAt p = true) (hp : p ≠ .command)
    (h : exec i s = .next t) : TokenStep s i t := by
  cases i
  case endMark =>
    obtain ⟨hat, rfl⟩ := exec_endMark_eq_next h
    exact .endMark hat
  case hdrR =>
    obtain ⟨hat, rfl⟩ := exec_hdrR_eq_next h
    exact .header rfl hat
  case hdrC =>
    obtain ⟨hat, rfl⟩ := exec_hdrC_eq_next h
    exact .header rfl hat
  case hdrRNs | hdrCNs => exact .of_nonStandard rfl h
  case raw => exact .of_raw h
  case tag => exact .of_tag h
  case lit => exact .of_lit h
  case cmdNop | cmdCompress | cmdDecompress | cmdRsvd => exact absurd (by simpa [Instr.standsAt] using hi) hp
  all_goals exact .of_ref rfl h

/-! ### The encoder (R202 to R206) -/

/-- What a step of a running COMPRESS can do. -/
inductive EncoderStep (s : State) : State → Prop where
  | complete (hs : s.estate = .slice) (h : s.sliceBase = s.inLen) : EncoderStep s (finishCompress s)
  | slice (hs : s.estate = .slice) (h : s.sliceBase.toNat < s.inLen.toNat) : EncoderStep s { s with
      sliceLen := BitVec.ofNat 13 (min 4096 (s.inLen.toNat - s.sliceBase.toNat))
      epos := 0
      candLen := 0
      eidx := 8#4
      mfIndex := []
      estate := .item }
  | itemsEnd (hs : s.estate = .item) (h : s.epos = s.sliceLen) : EncoderStep s { s with estate := .emit }
  | item {bytes : List Byte} {it : Item} {t : State} (hs : s.estate = .item) (h : s.epos ≠ s.sliceLen)
      (hrun : s.inBuf.readRun s.sliceBase.toNat s.sliceLen.toNat = some bytes)
      (hit : chooseItem bytes s.epos.toNat = some it) (hadd : addItem it (advance it.length s) = .next t) :
      EncoderStep s t
  | emit {c : BitVec 1} {payload : List Byte} {u : State} (hs : s.estate = .emit)
      (hsource : (c = 0#1 ∧ s.sliceLen.toNat ≤ s.candLen.toNat ∧
          s.inBuf.readRun s.sliceBase.toNat s.sliceLen.toNat = some payload) ∨
        (c = 1#1 ∧ s.candLen.toNat < s.sliceLen.toNat ∧ s.cand.readRun 0 s.candLen.toNat = some payload))
      (hemit : emitChunk c payload s = .next u) :
      EncoderStep s { u with sliceBase := s.sliceBase + s.sliceLen.setWidth 32, estate := .slice }

theorem emitChunk_appends {c : BitVec 1} {payload : List Byte} {s u : State} (h : emitChunk c payload s = .next u) :
    Appends (2 + payload.length) s u := by
  have := appendAll_appends h
  rwa [List.length_append, halfBytes, List.length_cons, List.length_singleton] at this

theorem emitChunk_nextSlice_eq_next {c : BitVec 1} {payload : List Byte} {s t : State}
    (h : andThen (emitChunk c payload s) nextSlice = .next t) :
    ∃ u, emitChunk c payload s = .next u ∧
      t = { u with sliceBase := s.sliceBase + s.sliceLen.setWidth 32, estate := .slice } := by
  obtain ⟨u, hemit, ⟨⟩⟩ := andThen_eq_next h
  refine ⟨u, hemit, ?_⟩
  rw [(emitChunk_appends hemit).frame]

theorem EncoderStep.of_sliceStep {s t : State} (hs : s.estate = .slice) (h : sliceStep s = .next t) :
    EncoderStep s t := by
  unfold sliceStep at h
  split at h
  case isTrue hend =>
    cases h
    exact .complete hs hend
  case isFalse hne =>
    split at h
    case isTrue => cases h
    case isFalse hle =>
      cases h
      exact .slice hs (lt_of_le_of_ne (not_lt.mp hle) fun heq => hne (BitVec.eq_of_toNat_eq heq))

theorem EncoderStep.of_itemStep {s t : State} (hs : s.estate = .item) (h : itemStep s = .next t) :
    EncoderStep s t := by
  unfold itemStep at h
  split at h
  case isTrue hend =>
    cases h
    exact .itemsEnd hs hend
  case isFalse hne =>
    obtain ⟨bytes, hrun, hitem⟩ := withSlice_eq_next h
    split at hitem
    case h_1 => cases hitem
    case h_2 it hit => exact .item hs hne hrun hit hitem

theorem EncoderStep.of_emitStep {s t : State} (hs : s.estate = .emit) (h : emitStep s = .next t) :
    EncoderStep s t := by
  unfold emitStep at h
  split at h
  case isTrue => cases h
  case isFalse =>
    split at h
    case isTrue hle =>
      obtain ⟨bytes, hrun, hchunk⟩ := withSlice_eq_next h
      obtain ⟨u, hemit, rfl⟩ := emitChunk_nextSlice_eq_next hchunk
      exact .emit hs (.inl ⟨rfl, hle, hrun⟩) hemit
    case isFalse hgt =>
      split at h
      case h_1 => cases h
      case h_2 bytes hrun =>
        obtain ⟨u, hemit, rfl⟩ := emitChunk_nextSlice_eq_next h
        exact .emit hs (.inr ⟨rfl, not_le.mp hgt, hrun⟩) hemit

theorem EncoderStep.of_encoderStep {s t : State} (h : encoderStep s = .next t) : EncoderStep s t := by
  unfold encoderStep at h
  split at h
  case h_1 hs => exact .of_sliceStep hs h
  case h_2 hs => exact .of_itemStep hs h
  case h_3 hs => exact .of_emitStep hs h
  case h_4 => cases h
  case h_5 => cases h

/-! ### The engine (D22) -/

/-- What the engine can do in one step. -/
inductive EngineStep (s : State) : State → Prop where
  | stopped (h : s.engine ≠ .busy) : EngineStep s s
  | failed {c : Cause} (hd : s.decoding = true) (hc : c ≠ .zeroDisplacement) : EngineStep s (takeError c s)
  | inputEnd (hd : s.decoding = true) (hds : s.dstate = .hdr) : EngineStep s (finishDecompress s)
  | chunkDone (hd : s.decoding = true) (h : s.ip = s.chunkEnd) (hds : s.dstate = .tag ∨ s.dstate = .item) :
      EngineStep s { s with dstate := .hdr }
  | groupDone (hd : s.decoding = true) (hds : s.dstate = .item) (h : s.idx = 8#4) :
      EngineStep s { s with dstate := .tag }
  | token {i : Instr} {t : State} (h : TokenStep s i t) : EngineStep s t
  | encoder {t : State} (he : s.encoding = true) (h : EncoderStep s t) : EngineStep s t

theorem EngineStep.of_fetchToken {s t : State} {p : Place} {n : Nat} (h : (fetchToken p n s).answer = .next t)
    (hp : p ≠ .command) : EngineStep s t := by
  unfold fetchToken at h
  split at h
  · cases h
  split at h
  · cases h
  split at h
  case h_1 i rest hdec =>
    obtain ⟨-, -, hat⟩ := encodeOfDecode p _ rest i hdec
    exact .token (.of_exec hat hp h)
  case h_2 => cases h

theorem EngineStep.of_fetchUnless {s t : State} {c : Option Cause} {p : Place} {n : Nat} (hd : s.decoding = true)
    (hc : Recorded c) (h : (fetchUnless c s (fetchToken p n s)).answer = .next t) (hp : p ≠ .command) :
    EngineStep s t := by
  cases c with
  | none => exact .of_fetchToken h hp
  | some e =>
    cases h
    exact .failed hd fun he => hc (congrArg some he)

theorem EngineStep.of_fetchHeader {s t : State} (hd : s.decoding = true) (hds : s.dstate = .hdr)
    (h : (fetchHeader s).answer = .next t) : EngineStep s t := by
  unfold fetchHeader at h
  split at h
  · cases h
    exact .inputEnd hd hds
  split at h
  · cases h
    exact .failed hd nofun
  · exact .of_fetchToken h nofun

theorem EngineStep.of_fetchTag {s t : State} (hd : s.decoding = true) (hds : s.dstate = .tag)
    (h : (fetchTag s).answer = .next t) : EngineStep s t := by
  unfold fetchTag at h
  split at h
  case isTrue hend =>
    cases h
    exact .chunkDone hd hend (.inl hds)
  case isFalse => exact .of_fetchUnless hd (byteTruncated_recorded s) h nofun

theorem EngineStep.of_fetchItem {s t : State} (hd : s.decoding = true) (hds : s.dstate = .item)
    (h : (fetchItem s).answer = .next t) : EngineStep s t := by
  unfold fetchItem at h
  split at h
  case isTrue hfull =>
    cases h
    exact .groupDone hd hds hfull
  split at h
  case isTrue hend =>
    cases h
    exact .chunkDone hd hend (.inr hds)
  split at h
  · cases h
  split at h
  · exact .of_fetchUnless hd (refTruncated_recorded s) h nofun
  · exact .of_fetchUnless hd (byteTruncated_recorded s) h nofun

theorem EngineStep.of_fetchDecoder {s t : State} (hd : s.decoding = true) (h : (fetchDecoder s).answer = .next t) :
    EngineStep s t := by
  unfold fetchDecoder at h
  split at h
  case h_1 hds => exact .of_fetchHeader hd hds h
  case h_2 => exact .of_fetchUnless hd (rawTruncated_recorded s) h nofun
  case h_3 hds => exact .of_fetchTag hd hds h
  case h_4 hds => exact .of_fetchItem hd hds h
  case h_5 => cases h
  case h_6 => cases h

theorem EngineStep.of_fetchEngine {s t : State} (h : (fetchEngine s).answer = .next t) : EngineStep s t := by
  unfold fetchEngine at h
  split at h
  case isTrue hbusy =>
    split at h
    case isTrue hop => exact .of_fetchDecoder (decoding_iff.mpr ⟨hbusy, hop⟩) h
    case isFalse =>
      split at h
      case isTrue hop => exact .encoder (encoding_iff.mpr ⟨hbusy, hop⟩) (.of_encoderStep h)
      case isFalse => cases h
  case isFalse hidle =>
    cases h
    exact .stopped hidle

/-! ### The host (R11, R21 to R30, R60, R270) -/

/-- An access that only gives the host a value. -/
def HostAction.isRead : HostAction → Bool
  | .readReg _ => true
  | .readIn _ => true
  | .readOut _ => true
  | .wait => false
  | .writeReg _ _ => false
  | .loadIn _ _ => false
  | .reset => false

/-- What a host action can do, `wait` being the engine's step. -/
inductive HostStep (s : State) : HostAction → State → Prop where
  | wait {t : State} (h : EngineStep s t) : HostStep s .wait t
  | ignored {n : Nat} {v : Word} : HostStep s (.writeReg n v) s
  | decompress {w : Word} (hop : w.extractLsb' 0 2 = 2#2) (hidle : s.engine ≠ .busy) (hloaded : s.inputLoaded = true) :
      HostStep s (.writeReg 0 w) (startDecompress s)
  | compress {w : Word} (hop : w.extractLsb' 0 2 = 1#2) (hidle : s.engine ≠ .busy) (hloaded : s.inputLoaded = true) :
      HostStep s (.writeReg 0 w) (startCompress s)
  | cfg {v : Word} (hidle : s.engine ≠ .busy) : HostStep s (.writeReg 1 v) { s with cfg := v &&& 0x1#32 }
  | inLen {v : Word} (hidle : s.engine ≠ .busy) (hv : v.toNat ≤ s.inCap.toNat) :
      HostStep s (.writeReg 4 v) { s with inLen := v }
  | load {a : Word} {b : Byte} (hidle : s.engine ≠ .busy) (ha : a.toNat < s.inCap.toNat) :
      HostStep s (.loadIn a b) { s with inBuf := s.inBuf.write a.toNat b }
  | read {act : HostAction} {w : Word} {d : Nat} (h : act.isRead = true) :
      HostStep s act { s with hostData := w, draws := d }
  | reset : HostStep s .reset (resetBlock s)

theorem HostStep.of_command {s t : State} {w : Word} (h : exec (decodeCmd w) s = .next t) :
    HostStep s (.writeReg 0 w) t := by
  rcases op_cases w with hop | hop | hop | hop
  · rw [decodeCmd_of_op_zero hop] at h
    obtain ⟨-, ⟨⟩⟩ := whenNotBusy_eq_next h
    exact .ignored
  · rw [decodeCmd_of_op_one hop] at h
    obtain ⟨hidle, hloaded, rfl⟩ := exec_cmdCompress_eq_next h
    exact .compress hop hidle hloaded
  · rw [decodeCmd_of_op_two hop] at h
    obtain ⟨hidle, hloaded, rfl⟩ := exec_cmdDecompress_eq_next h
    exact .decompress hop hidle hloaded
  · rw [decodeCmd_of_op_three hop] at h
    obtain ⟨-, ⟨⟩⟩ := whenNotBusy_eq_next h
    exact .ignored

theorem HostStep.of_writeRegister {s t : State} {n : Nat} {v : Word} (h : writeRegister n v s = .next t) :
    HostStep s (.writeReg n v) t := by
  obtain ⟨rfl, hidle, rfl⟩ | ⟨rfl, hidle, hv, rfl⟩ | ⟨-, -, rfl⟩ := writeRegister_eq_next h
  · exact .cfg hidle
  · exact .inLen hidle hv
  · exact .ignored

theorem HostStep.of_loadInput {s t : State} {a : Word} {b : Byte} (h : loadInput a b s = .next t) :
    HostStep s (.loadIn a b) t := by
  unfold loadInput at h
  split at h
  case isTrue => cases h
  case isFalse ha =>
    obtain ⟨hidle, ⟨⟩⟩ := whenNotBusy_eq_next h
    exact .load hidle (not_le.mp ha)

theorem HostStep.of_giveHost {s : State} {act : HostAction} (hact : act.isRead = true) (w : Word) :
    HostStep s act (giveHost w s) :=
  .read hact

theorem HostStep.of_giveFreeByte {s : State} {act : HostAction} (hact : act.isRead = true) :
    HostStep s act (giveFreeByte s) :=
  .read hact

theorem HostStep.of_readRegister (s : State) (n : Nat) : HostStep s (.readReg n) (readRegister n s) := by
  unfold readRegister
  split
  · exact .read rfl
  · exact .of_giveHost rfl _

theorem HostStep.of_readInput {s t : State} {a : Word} (h : readInput a s = .next t) : HostStep s (.readIn a) t := by
  unfold readInput at h
  split at h
  · cases h
  split at h
  · cases h
    exact .of_giveHost rfl _
  · cases h
    exact .of_giveFreeByte rfl

theorem HostStep.of_readOutput {s t : State} {a : Word} (h : readOutput a s = .next t) :
    HostStep s (.readOut a) t := by
  unfold readOutput at h
  split at h
  · cases h
  split at h
  · split at h
    · cases h
      exact .of_giveHost rfl _
    · cases h
      exact .of_giveFreeByte rfl
  · cases h
    exact .of_giveFreeByte rfl

theorem HostStep.of_fetchHost {s t : State} {act : HostAction} (h : (fetchHost act s).answer = .next t) :
    HostStep s act t := by
  unfold fetchHost at h
  split at h
  case h_1 => exact .wait (.of_fetchEngine h)
  case h_2 => exact .of_command h
  case h_3 => exact .of_writeRegister h
  case h_4 =>
    cases h
    exact .of_readRegister s _
  case h_5 => exact .of_loadInput h
  case h_6 => exact .of_readInput h
  case h_7 => exact .of_readOutput h
  case h_8 =>
    cases h
    exact .reset

/-- The inversion of `step`: the engine's step where no host action is pending, else the oldest action's, in the state
without it. -/
theorem step_cases {s t : State} (h : step s = .next t) :
    (s.host = [] ∧ EngineStep s t) ∨ ∃ act q, s.host = act :: q ∧ HostStep { s with host := q } act t := by
  rw [step_eq_fetch_answer] at h
  unfold fetch at h
  split at h
  case h_1 hh => exact .inl ⟨hh, .of_fetchEngine h⟩
  case h_2 act q hh => exact .inr ⟨act, q, hh, .of_fetchHost h⟩

theorem engineStep_of_step {s t : State} (hh : s.host = []) (h : step s = .next t) : EngineStep s t := by
  rw [step_eq_fetch_answer, fetch_of_host_nil hh] at h
  exact .of_fetchEngine h

theorem hostStep_of_step {s t : State} {act : HostAction} {q : List HostAction} (hh : s.host = act :: q)
    (h : step s = .next t) : HostStep { s with host := q } act t := by
  obtain ⟨hnil, -⟩ | ⟨act', q', hcons, hstep⟩ := step_cases h
  · rw [hh] at hnil
    cases hnil
  · rw [hh] at hcons
    cases hcons
    exact hstep

end Sys2Proof.Machine

/-! ## Frames (R45, R61 to R63, R247) -/

namespace Sys2Proof.Machine

/-! ### What the decoder and the encoder leave unchanged -/

/-- The frame of a decoder's step: the encoder's registers, CFG, IN_LEN, STRICT_L, IN, CAND, the parameters and the
host's part are unchanged. -/
def DecoderFrame (s t : State) : Prop :=
  t = { s with
    status := t.status
    err := t.err
    outLen := t.outLen
    faultIp := t.faultIp
    faultPos := t.faultPos
    dstate := t.dstate
    ip := t.ip
    chunkEnd := t.chunkEnd
    size := t.size
    cflag := t.cflag
    pos := t.pos
    olen := t.olen
    outBase := t.outBase
    tag := t.tag
    idx := t.idx
    outBuf := t.outBuf }

theorem TokenStep.frame {s t : State} {i : Instr} (h : TokenStep s i t) : DecoderFrame s t := by
  cases h with
  | failed | endMark | header | tag | lit => rfl
  | raw _ _ happ =>
    rw [(appendAll_appends happ).frame]
    rfl
  | ref _ _ _ _ _ _ hcopy =>
    rw [(copyBytes_appends hcopy).frame]
    rfl

/-- The frame of an encoder's step: the decoder's own registers, the error registers, CFG, IN_LEN, STRICT_L, IN, the
parameters and the host's part are unchanged. -/
def EncoderFrame (s t : State) : Prop :=
  t = { s with
    outLen := t.outLen
    status := t.status
    olen := t.olen
    estate := t.estate
    sliceBase := t.sliceBase
    sliceLen := t.sliceLen
    epos := t.epos
    candLen := t.candLen
    etagAt := t.etagAt
    eidx := t.eidx
    mfIndex := t.mfIndex
    outBuf := t.outBuf
    cand := t.cand }

theorem EncoderStep.frame {s t : State} (h : EncoderStep s t) : EncoderFrame s t := by
  cases h with
  | complete | slice | itemsEnd => rfl
  | item _ _ _ _ hadd =>
    rw [addItem_onlyCandidate hadd]
    rfl
  | emit _ _ hemit =>
    rw [(emitChunk_appends hemit).frame]
    rfl

/-- What no step of the engine writes: the input, the parameters, CFG and the host's part (R61). -/
structure SameInput (s t : State) : Prop where
  cfg : t.cfg = s.cfg
  inLen : t.inLen = s.inLen
  inBuf : t.inBuf = s.inBuf
  inCap : t.inCap = s.inCap
  outCap : t.outCap = s.outCap
  host : t.host = s.host

theorem DecoderFrame.sameInput {s t : State} (h : DecoderFrame s t) : SameInput s t := by
  unfold DecoderFrame at h
  rw [h]
  exact ⟨rfl, rfl, rfl, rfl, rfl, rfl⟩

theorem EncoderFrame.sameInput {s t : State} (h : EncoderFrame s t) : SameInput s t := by
  unfold EncoderFrame at h
  rw [h]
  exact ⟨rfl, rfl, rfl, rfl, rfl, rfl⟩

theorem EngineStep.sameInput {s t : State} (h : EngineStep s t) : SameInput s t := by
  cases h with
  | stopped | failed | inputEnd | chunkDone | groupDone => exact ⟨rfl, rfl, rfl, rfl, rfl, rfl⟩
  | token h => exact h.frame.sameInput
  | encoder _ h => exact h.frame.sameInput

/-! ### What becomes of OUT (R61, R62) -/

theorem TokenStep.outAppends {s t : State} {i : Instr} (h : TokenStep s i t) : ∃ n, OutAppends n s t := by
  cases h with
  | failed | endMark | header | tag => exact ⟨0, (OutAppends.refl s).congr rfl rfl rfl⟩
  | raw _ _ happ => exact ⟨_, (appendAll_appends happ).out.congr rfl rfl rfl⟩
  | lit _ _ _ hroom => exact ⟨1, (putOut_appends hroom _).out.congr rfl rfl rfl⟩
  | ref _ _ _ _ _ _ hcopy => exact ⟨_, (copyBytes_appends hcopy).out.congr rfl rfl rfl⟩

theorem EncoderStep.outAppends {s t : State} (h : EncoderStep s t) : ∃ n, OutAppends n s t := by
  cases h with
  | complete | slice | itemsEnd => exact ⟨0, (OutAppends.refl s).congr rfl rfl rfl⟩
  | item _ _ _ _ hadd =>
    have hframe := addItem_onlyCandidate hadd
    exact ⟨0, (OutAppends.refl s).congr (congrArg State.outCap hframe :) (congrArg State.olen hframe :)
      (congrArg State.outBuf hframe :)⟩
  | emit _ _ hemit => exact ⟨_, (emitChunk_appends hemit).out.congr rfl rfl rfl⟩

theorem EngineStep.outAppends {s t : State} (h : EngineStep s t) : ∃ n, OutAppends n s t := by
  cases h with
  | stopped | failed | inputEnd | chunkDone | groupDone => exact ⟨0, (OutAppends.refl s).congr rfl rfl rfl⟩
  | token h => exact h.outAppends
  | encoder _ h => exact h.outAppends

/-- Settles O50: whatever the engine does, its input stays and OUT is appended to. -/
theorem engineAppendsOnly : Obligations.EngineAppendsOnly := by
  unfold Obligations.EngineAppendsOnly
  intro s t hh _ hstep
  have h := engineStep_of_step hh hstep
  obtain ⟨n, hout⟩ := h.outAppends
  have holen := hout.olen
  exact ⟨h.sameInput.inBuf, h.sameInput.inLen, by omega, fun a ha => hout.other a (by omega)⟩

/-! ### What becomes of STATUS (R24) -/

theorem TokenStep.decoding {s t : State} {i : Instr} (h : TokenStep s i t) : s.decoding = true := by
  cases h with
  | failed hd => exact hd
  | endMark h | header _ h => exact decoding_of_atHeader h
  | raw h => exact decoding_of_atRaw h
  | tag h => exact decoding_of_atTag h
  | lit h => exact decoding_of_atItem (atItem_of_atLiteral h)
  | ref _ h => exact decoding_of_atItem (atItem_of_atRef h)

/-- The registers that only an error changes, and STATUS as it was or DONE. -/
structure Unfailed (s t : State) : Prop where
  err : t.err = s.err
  faultPos : t.faultPos = s.faultPos
  status : t.status = s.status ∨ t.status = statusSetState s.status .done

theorem TokenStep.failed_or_unfailed {s t : State} {i : Instr} (h : TokenStep s i t) :
    (∃ c, c ≠ .zeroDisplacement ∧ t = takeError c s) ∨ Unfailed s t := by
  cases h with
  | failed _ hc => exact .inl ⟨_, hc, rfl⟩
  | endMark => exact .inr ⟨rfl, rfl, .inr rfl⟩
  | header | tag | lit => exact .inr ⟨rfl, rfl, .inl rfl⟩
  | raw _ _ happ =>
    rw [(appendAll_appends happ).frame]
    exact .inr ⟨rfl, rfl, .inl rfl⟩
  | ref _ _ _ _ _ _ hcopy =>
    rw [(copyBytes_appends hcopy).frame]
    exact .inr ⟨rfl, rfl, .inl rfl⟩

theorem EncoderStep.unfailed {s t : State} (h : EncoderStep s t) : Unfailed s t := by
  have hframe := h.frame
  refine ⟨(congrArg State.err hframe :), (congrArg State.faultPos hframe :), ?_⟩
  cases h with
  | complete => exact .inr rfl
  | slice | itemsEnd => exact .inl rfl
  | item _ _ _ _ hadd => exact .inl (congrArg State.status (addItem_onlyCandidate hadd) :)
  | emit _ _ hemit => exact .inl (congrArg State.status (emitChunk_appends hemit).frame :)

/-- The engine's step records an error, which only a running DECOMPRESS does, or leaves the error registers alone. -/
theorem EngineStep.failed_or_unfailed {s t : State} (h : EngineStep s t) :
    (s.decoding = true ∧ ∃ c, c ≠ .zeroDisplacement ∧ t = takeError c s) ∨ Unfailed s t := by
  cases h with
  | stopped | chunkDone | groupDone => exact .inr ⟨rfl, rfl, .inl rfl⟩
  | failed hd hc => exact .inl ⟨hd, _, hc, rfl⟩
  | inputEnd => exact .inr ⟨rfl, rfl, .inr rfl⟩
  | token h => exact h.failed_or_unfailed.imp_left fun hfail => ⟨h.decoding, hfail⟩
  | encoder _ h => exact .inr h.unfailed

theorem engine_congr {s t : State} (h : t.status = s.status) : t.engine = s.engine := by
  rw [State.engine, State.engine, h]

theorem Unfailed.engine {s t : State} (h : Unfailed s t) : t.engine = s.engine ∨ t.engine = .done :=
  h.status.imp engine_congr fun hdone => engine_of_statusSetState t s.status .done hdone

theorem EngineStep.of_not_busy {s t : State} (h : EngineStep s t) (hidle : s.engine ≠ .busy) : t = s := by
  have hdec : s.decoding ≠ true := fun hd => hidle (decoding_iff.mp hd).1
  cases h with
  | stopped => rfl
  | failed hd | inputEnd hd | chunkDone hd | groupDone hd => exact absurd hd hdec
  | token h => exact absurd h.decoding hdec
  | encoder he => exact absurd (encoding_iff.mp he).1 hidle

theorem EngineStep.lastOp {s t : State} (h : EngineStep s t) : t.lastOp = s.lastOp := by
  obtain ⟨-, c, -, rfl⟩ | hok := h.failed_or_unfailed
  · exact takeError_lastOp c s
  · rw [State.lastOp, State.lastOp]
    rcases hok.status with hst | hst <;> rw [hst]
    exact statusSetState_lastOp s.status .done

theorem errWord_mem {c : Cause} (h : c ≠ .zeroDisplacement) :
    errWord c ∈ [0x11#32, 0x21#32, 0x31#32, 0x41#32, 0x12#32, 0x23#32, 0x33#32, 0x43#32] := by
  cases c
  case zeroDisplacement => exact absurd rfl h
  all_goals decide

/-- A step of the engine that enters ERROR is the error entry of a running DECOMPRESS. -/
theorem EngineStep.error {s t : State} (h : EngineStep s t) (hs : s.engine ≠ .error) (ht : t.engine = .error) :
    s.decoding = true ∧ ∃ c, c ≠ .zeroDisplacement ∧ t = takeError c s := by
  refine h.failed_or_unfailed.resolve_right fun hok => ?_
  rcases hok.engine with he | he
  · exact hs (he.symm.trans ht)
  · rw [he] at ht
    cases ht

/-- No host access but the wait for the engine enters ERROR. -/
theorem HostStep.error {s t : State} {act : HostAction} (h : HostStep s act t) (hs : s.engine ≠ .error)
    (ht : t.engine = .error) : act = .wait ∧ EngineStep s t := by
  cases h with
  | wait h => exact ⟨rfl, h⟩
  | ignored | cfg | inLen | load | read => exact absurd ht hs
  | decompress | compress => simp at ht
  | reset => cases ht

/-- Settles O26: the only step into ERROR is the engine's error entry, whose cause is never the zero displacement. -/
theorem onlyDecompressFails : Obligations.OnlyDecompressFails := by
  unfold Obligations.OnlyDecompressFails
  intro s t hstep hs ht
  obtain ⟨hh, h⟩ | ⟨act, q, hh, h⟩ := step_cases hstep
  · obtain ⟨hd, c, hc, rfl⟩ := h.error hs ht
    exact ⟨hd, .inl hh, errWord_mem hc⟩
  · obtain ⟨rfl, hengine⟩ := h.error hs ht
    obtain ⟨hd, c, hc, rfl⟩ := hengine.error hs ht
    exact ⟨hd, .inr ⟨q, hh⟩, errWord_mem hc⟩

/-- Settles O27: in ERROR the engine does nothing, and the host writes CFG, IN_LEN, IN or nothing. -/
theorem errorPersists : Obligations.ErrorPersists := by
  unfold Obligations.ErrorPersists
  intro s t hs hstep hreset hcmd
  have hidle : s.engine ≠ .busy := by simp [hs]
  obtain ⟨hh, h⟩ | ⟨act, q, hh, h⟩ := step_cases hstep
  · rw [h.of_not_busy hidle]
    exact ⟨hs, rfl, rfl, rfl, rfl⟩
  · cases h with
    | wait h =>
      rw [h.of_not_busy hidle]
      exact ⟨hs, rfl, rfl, rfl, rfl⟩
    | ignored | cfg | inLen | load | read => exact ⟨hs, rfl, rfl, rfl, rfl⟩
    | decompress hop =>
      rcases hcmd _ q hh with h0 | h0 <;> rw [hop] at h0 <;> cases h0
    | compress hop =>
      rcases hcmd _ q hh with h0 | h0 <;> rw [hop] at h0 <;> cases h0
    | reset => exact absurd hh (hreset q)

/-- Settles O43, by the case of `HostStep` that each access is. -/
theorem hostAccessFrame : Obligations.HostAccessFrame := by
  unfold Obligations.HostAccessFrame
  intro s t act q hh hstep
  have h := hostStep_of_step hh hstep
  refine ⟨?readReg, ?readBuffer, ?writeReg, ?load⟩
  case readReg =>
    rintro n rfl
    cases h
    rfl
  case readBuffer =>
    rintro a (rfl | rfl) <;> cases h <;> rfl
  case writeReg =>
    rintro n v rfl
    cases h with
    | ignored => exact ⟨rfl, fun _ => rfl, fun _ => rfl⟩
    | cfg => exact ⟨rfl, fun hne => absurd rfl hne, fun _ => rfl⟩
    | inLen => exact ⟨rfl, fun _ => rfl, fun hne => absurd rfl hne⟩
    | read hread => cases hread
  case load =>
    rintro a b rfl
    cases h with
    | load => exact ⟨rfl, Memory.read_write_same _ _ _, fun x hx => Memory.read_write_other _ _ hx⟩
    | read hread => cases hread

/-! ### The tokens' frames -/

/-- The error entry written out by the fields it gives. -/
theorem takeError_eq_failed_self (c : Cause) (s : State) :
    (takeError c s).engine = .error ∧ takeError c s = failed (takeError c s).err (takeError c s).faultPos s :=
  ⟨takeError_engine c s, rfl⟩

theorem statusSetState_high (w : Word) (e : EngineState) :
    (statusSetState w e).extractLsb' 2 30 = w.extractLsb' 2 30 :=
  BitVec.extractLsb'_append_eq_left

/-- Settles O39: the headers and TAG end as `TokenStep` says, or with the error entry alone. -/
theorem headerAndTagFrame : Obligations.HeaderAndTagFrame := by
  unfold Obligations.HeaderAndTagFrame
  intro i s t hexec
  have hns : (∃ g m, i = .hdrRNs g m) ∨ (∃ g m, i = .hdrCNs g m) → (∃ c, t = takeError c s) ∨
      ∃ c m, t = chunkSetup c m s := by
    rintro (⟨g, m, rfl⟩ | ⟨g, m, rfl⟩)
    all_goals
      obtain ⟨-, h⟩ := inPlace_eq_next hexec
      obtain ⟨c, -, rfl⟩ | ⟨-, ⟨⟩⟩ := checkedBy_eq_next h
      · exact .inl ⟨c, rfl⟩
      · exact .inr ⟨_, m, rfl⟩
  have htag : (∃ b, i = .tag b) → (∃ c, t = takeError c s) ∨
      ∃ b, t = { s with tag := b, ip := s.ip + 1, idx := 0, dstate := .item } := by
    rintro ⟨b, rfl⟩
    obtain ⟨-, h⟩ := inPlace_eq_next hexec
    obtain ⟨c, -, rfl⟩ | ⟨-, ⟨⟩⟩ := checkedBy_eq_next h
    · exact .inl ⟨c, rfl⟩
    · exact .inr ⟨b, rfl⟩
  refine ⟨?endMark, ?conformant, fun hi => ?nonStandard, fun hi => ?tag, ?buffers⟩
  case endMark =>
    rintro rfl
    obtain ⟨-, rfl⟩ := exec_endMark_eq_next hexec
    exact ⟨rfl, statusSetState_high s.status .done⟩
  case conformant =>
    rintro (⟨m, rfl⟩ | ⟨m, rfl⟩)
    · obtain ⟨-, rfl⟩ := exec_hdrR_eq_next hexec
      rfl
    · obtain ⟨-, rfl⟩ := exec_hdrC_eq_next hexec
      rfl
  case nonStandard =>
    obtain ⟨c, rfl⟩ | ⟨c, m, rfl⟩ := hns hi
    · exact .inl (takeError_eq_failed_self c s)
    · exact .inr rfl
  case tag =>
    obtain ⟨c, rfl⟩ | ⟨b, rfl⟩ := htag hi
    · exact .inl (takeError_eq_failed_self c s)
    · exact .inr rfl
  case buffers =>
    rintro (rfl | ⟨m, rfl⟩ | ⟨m, rfl⟩ | hi | hi | hi) a
    · obtain ⟨-, rfl⟩ := exec_endMark_eq_next hexec
      exact ⟨rfl, rfl, rfl⟩
    · obtain ⟨-, rfl⟩ := exec_hdrR_eq_next hexec
      exact ⟨rfl, rfl, rfl⟩
    · obtain ⟨-, rfl⟩ := exec_hdrC_eq_next hexec
      exact ⟨rfl, rfl, rfl⟩
    · obtain ⟨c, rfl⟩ | ⟨c, m, rfl⟩ := hns (.inl hi) <;> exact ⟨rfl, rfl, rfl⟩
    · obtain ⟨c, rfl⟩ | ⟨c, m, rfl⟩ := hns (.inr hi) <;> exact ⟨rfl, rfl, rfl⟩
    · obtain ⟨c, rfl⟩ | ⟨b, rfl⟩ := htag hi <;> exact ⟨rfl, rfl, rfl⟩

/-- A storing token appends its bytes and moves the cursors its rule names, or fails by the error entry (R142, R144,
R176). -/
theorem storingToken_cases {i : Instr} {s t : State} {n : Nat} (hexec : exec i s = .next t)
    (hi : (∃ payload, i = .raw payload ∧ n = payload.length) ∨ (∃ b, i = .lit b ∧ n = 1) ∨
      ∃ ob d, refOperands i = some (ob, d, n)) :
    (∃ c, t = takeError c s) ∨ ∃ u, Appends n s u ∧
      ((∃ payload, i = .raw payload) ∧ t = { u with pos := t.pos, ip := t.ip, dstate := t.dstate } ∨
        (∀ payload, i ≠ .raw payload) ∧ t = { u with pos := t.pos, ip := t.ip, idx := t.idx }) := by
  rcases hi with ⟨payload, rfl, rfl⟩ | ⟨b, rfl, rfl⟩ | ⟨ob, d, hops⟩
  · cases TokenStep.of_raw hexec with
    | failed => exact .inl ⟨_, rfl⟩
    | raw _ _ happ => exact .inr ⟨_, appendAll_appends happ, .inl ⟨⟨payload, rfl⟩, rfl⟩⟩
    | header hi => exact absurd hi (by simp [Instr.standsAt])
    | ref hops => cases hops
  · cases TokenStep.of_lit hexec with
    | failed => exact .inl ⟨_, rfl⟩
    | lit _ _ _ hroom => exact .inr ⟨_, putOut_appends hroom b, .inr ⟨nofun, rfl⟩⟩
    | header hi => exact absurd hi (by simp [Instr.standsAt])
    | ref hops => cases hops
  · have hraw : ∀ payload, i ≠ .raw payload := by
      rintro payload rfl
      cases hops
    rw [exec_of_refOperands hops] at hexec
    obtain ⟨-, h⟩ := inPlace_eq_next hexec
    obtain ⟨c, -, rfl⟩ | ⟨-, h⟩ := checkedBy_eq_next h
    · exact .inl ⟨c, rfl⟩
    obtain ⟨c, -, rfl⟩ | ⟨-, h⟩ := checkedBy_eq_next h
    · exact .inl ⟨c, rfl⟩
    obtain ⟨u, hcopy, ⟨⟩⟩ := andThen_eq_next h
    exact .inr ⟨u, copyBytes_appends hcopy, .inr ⟨hraw, rfl⟩⟩

/-- Settles O40: past the error entry a storing token is `Appends` and its cursors. -/
theorem storingTokenFrame : Obligations.StoringTokenFrame := by
  unfold Obligations.StoringTokenFrame
  intro i s t n hexec hi
  obtain ⟨c, rfl⟩ | ⟨u, happ, ht⟩ := storingToken_cases hexec hi
  · obtain ⟨herr, hself⟩ := takeError_eq_failed_self c s
    exact ⟨fun a => ⟨rfl, rfl⟩, .inl ⟨herr, hself, fun a => rfl⟩⟩
  have hout := happ.out.other
  have hframe := happ.frame
  obtain ⟨hraw, ht⟩ | ⟨hraw, ht⟩ := ht
  · rw [hframe] at ht
    rw [ht]
    refine ⟨fun a => ⟨rfl, rfl⟩, .inr ⟨hout, fun _ => rfl, fun hno => ?_⟩⟩
    obtain ⟨payload, rfl⟩ := hraw
    exact absurd rfl (hno payload)
  · rw [hframe] at ht
    rw [ht]
    refine ⟨fun a => ⟨rfl, rfl⟩, .inr ⟨hout, fun ⟨payload, hp⟩ => absurd hp (hraw payload), fun _ => rfl⟩⟩

theorem encoderStep_of_step {s t : State} (hh : s.host = []) (he : s.encoding = true) (h : step s = .next t) :
    EncoderStep s t := by
  rw [step_of_encoding hh he] at h
  exact .of_encoderStep h

/-- Settles O42: the frame of `EncoderStep`, and what its cases write of OUT, CAND, OUT_LEN and STATUS. -/
theorem encoderFrame : Obligations.EncoderFrame := by
  unfold Obligations.EncoderFrame
  intro s t hh he hstep
  have h := encoderStep_of_step hh he hstep
  refine ⟨h.frame, fun a => by rw [h.frame.sameInput.inBuf], ?_⟩
  cases h with
  | complete hs =>
    exact ⟨fun hne => absurd rfl hne, fun _ a => rfl, fun _ a => rfl⟩
  | slice | itemsEnd => exact ⟨fun _ => ⟨rfl, rfl⟩, fun _ a => rfl, fun _ a => rfl⟩
  | item hs _ _ _ hadd =>
    rw [addItem_onlyCandidate hadd]
    exact ⟨fun _ => ⟨rfl, rfl⟩, fun _ a => rfl, fun hne => absurd hs hne⟩
  | emit hs _ hemit =>
    rw [(emitChunk_appends hemit).frame]
    exact ⟨fun _ => ⟨rfl, rfl⟩, fun hne => absurd hs hne, fun _ a => rfl⟩

end Sys2Proof.Machine

/-! ## The invariants of a run (R24 to R45, R60, R151) -/

namespace Sys2Proof.Machine

/-! ### Buffers (R60) -/

theorem buffersWf_iff {s : State} :
    s.buffersWf = true ↔
      (s.inBuf.wf = true ∧ s.inBuf.below s.inCap.toNat = true) ∧
        (s.outBuf.wf = true ∧ s.outBuf.below s.outCap.toNat = true) ∧
        (s.cand.wf = true ∧ s.cand.below 4608 = true) := by
  simp only [State.buffersWf, Bool.and_eq_true, and_assoc]

theorem openGroup_candWf {s t : State} (h : openGroup s = .next t) (hw : s.cand.wf = true ∧ s.cand.below 4608 = true) :
    t.cand.wf = true ∧ t.cand.below 4608 = true := by
  unfold openGroup at h
  split at h
  · obtain ⟨u, hpush, ⟨⟩⟩ := andThen_eq_next h
    have hu := pushCand_candWf hpush hw
    exact hu
  · cases h
    exact hw

theorem packItem_candWf {it : Item} {s t : State} (h : packItem it s = .next t)
    (hw : s.cand.wf = true ∧ s.cand.below 4608 = true) : t.cand.wf = true ∧ t.cand.below 4608 = true := by
  cases it with
  | lit b => exact pushCand_candWf h hw
  | ref p d l =>
    obtain ⟨u, hbit, hpush⟩ := andThen_eq_next h
    obtain ⟨v, hlo, hhi⟩ := andThen_eq_next hpush
    exact pushCand_candWf hhi (pushCand_candWf hlo (setTagBit_candWf hbit hw))

theorem addItem_candWf {it : Item} {s t : State} (h : addItem it s = .next t)
    (hw : s.cand.wf = true ∧ s.cand.below 4608 = true) : t.cand.wf = true ∧ t.cand.below 4608 = true := by
  obtain ⟨u, hopen, hpack⟩ := andThen_eq_next h
  obtain ⟨v, hitem, ⟨⟩⟩ := andThen_eq_next hpack
  have hv := packItem_candWf hitem (openGroup_candWf hopen hw)
  exact hv

theorem EncoderStep.candWf {s t : State} (h : EncoderStep s t) (hw : s.cand.wf = true ∧ s.cand.below 4608 = true) :
    t.cand.wf = true ∧ t.cand.below 4608 = true := by
  cases h with
  | complete | slice | itemsEnd => exact hw
  | item _ _ _ _ hadd => exact addItem_candWf hadd hw
  | emit _ _ hemit =>
    rw [(emitChunk_appends hemit).frame]
    exact hw

theorem EngineStep.candWf {s t : State} (h : EngineStep s t) (hw : s.cand.wf = true ∧ s.cand.below 4608 = true) :
    t.cand.wf = true ∧ t.cand.below 4608 = true := by
  cases h with
  | stopped | failed | inputEnd | chunkDone | groupDone => exact hw
  | token h =>
    have hcand : t.cand = s.cand := (congrArg State.cand h.frame :)
    rwa [hcand]
  | encoder _ h => exact h.candWf hw

theorem EngineStep.buffersWf {s t : State} (h : EngineStep s t) (hs : s.buffersWf = true) : t.buffersWf = true := by
  obtain ⟨hin, hout, hcand⟩ := buffersWf_iff.mp hs
  obtain ⟨n, happ⟩ := h.outAppends
  refine buffersWf_iff.mpr ⟨?_, happ.wf hout, h.candWf hcand⟩
  rwa [h.sameInput.inBuf, h.sameInput.inCap]

theorem HostStep.buffersWf {s t : State} {act : HostAction} (h : HostStep s act t) (hs : s.buffersWf = true) :
    t.buffersWf = true := by
  cases h with
  | wait h => exact h.buffersWf hs
  | ignored | decompress | compress | cfg | inLen | read => exact hs
  | load _ ha =>
    obtain ⟨⟨hwf, hbelow⟩, hrest⟩ := buffersWf_iff.mp hs
    exact buffersWf_iff.mpr ⟨⟨Memory.wf_write _ _ _ hwf, Memory.below_write _ _ ha hbelow⟩, hrest⟩
  | reset => rfl

/-- Settles O44: the engine appends to OUT and packs into CAND, and a load writes one byte of IN. -/
theorem stepKeepsBuffers : Obligations.StepKeepsBuffers := by
  unfold Obligations.StepKeepsBuffers
  intro s t hs hstep
  obtain ⟨-, h⟩ | ⟨act, q, -, h⟩ := step_cases hstep
  · exact h.buffersWf hs
  · exact h.buffersWf (s := { s with host := q }) hs

/-! ### Reserved bits, IN_LEN and the running command (R23 to R30) -/

theorem status_reserved_setState {w : Word} (h : w &&& 0xFFFFFFF0#32 = 0#32) (e : EngineState) :
    statusSetState w e &&& 0xFFFFFFF0#32 = 0#32 := by
  rw [status_reserved_iff] at h ⊢
  calc (statusSetState w e).extractLsb' 4 28
      = (w.extractLsb' 2 30).extractLsb' 2 28 := extractLsb'_append_above (w.extractLsb' 2 30) e.code 2 28
    _ = w.extractLsb' 4 28 := by
      apply BitVec.eq_of_getLsbD_eq
      intro i hi
      have h30 : 2 + i < 30 := by omega
      simp [hi, h30, ← Nat.add_assoc]
    _ = 0#28 := h

theorem status_reserved_start {w : Word} (h : w &&& 0xFFFFFFF0#32 = 0#32) (op : BitVec 2) (e : EngineState) :
    statusStart w op e &&& 0xFFFFFFF0#32 = 0#32 := by
  rw [status_reserved_iff] at h ⊢
  calc (statusStart w op e).extractLsb' 4 28
      = (w.extractLsb' 4 28 ++ op).extractLsb' 2 28 := extractLsb'_append_above (w.extractLsb' 4 28 ++ op) e.code 2 28
    _ = w.extractLsb' 4 28 := BitVec.extractLsb'_append_eq_left
    _ = 0#28 := h

theorem errWord_reserved (c : Cause) : errWord c &&& 0xFFFFFF0C#32 = 0#32 := by
  cases c <;> rfl

/-- A position has 13 bits, which FAULT_POS has (R29). -/
theorem faultPos_reserved (p : BitVec 13) : p.setWidth 32 &&& 0xFFFFE000#32 = 0#32 := by
  have hpos : p.setWidth 32 = 0#19 ++ p := by
    apply BitVec.eq_of_toNat_eq
    have happend := BitVec.toNat_append (0#19) p
    have hlt := p.isLt
    rw [BitVec.toNat_setWidth, Nat.mod_eq_of_lt (by omega)]
    simpa using happend.symm
  have hmask : (0xFFFFE000#32 : Word) = BitVec.allOnes 19 ++ 0#13 := rfl
  rw [hpos, hmask, BitVec.and_append, BitVec.and_allOnes, BitVec.and_zero]
  rfl

theorem takeError_registersWf (c : Cause) {s : State} (hs : s.registersWf = true) :
    (takeError c s).registersWf = true := by
  obtain ⟨hcfg, hstatus, -, -, hlen, -⟩ := registersWf_iff.mp hs
  refine registersWf_iff.mpr ⟨hcfg, status_reserved_setState hstatus .error, errWord_reserved c, ?_, hlen,
    fun hb => by simp at hb⟩
  rw [takeError_faultPos]
  split
  · exact faultPos_reserved s.pos
  · rfl

theorem EngineStep.registersWf {s t : State} (h : EngineStep s t) (hs : s.registersWf = true) :
    t.registersWf = true := by
  obtain ⟨-, c, -, rfl⟩ | hok := h.failed_or_unfailed
  · exact takeError_registersWf c hs
  · obtain ⟨hcfg, hstatus, herr, hpos, hlen, hop⟩ := registersWf_iff.mp hs
    refine registersWf_iff.mpr ⟨by rwa [h.sameInput.cfg], ?_, by rwa [hok.err], by rwa [hok.faultPos],
      by rwa [h.sameInput.inLen, h.sameInput.inCap], fun hbusy => ?_⟩
    · rcases hok.status with hst | hst <;> rw [hst]
      · exact hstatus
      · exact status_reserved_setState hstatus .done
    · rw [h.lastOp]
      rcases hok.engine with he | he
      · exact hop (he.symm.trans hbusy)
      · rw [he] at hbusy
        cases hbusy

theorem resetBlock_registersWf (s : State) : (resetBlock s).registersWf = true :=
  registersWf_iff.mpr
    ⟨BitVec.zero_and, BitVec.zero_and, BitVec.zero_and, BitVec.zero_and, Nat.zero_le _, nofun⟩

theorem HostStep.registersWf {s t : State} {act : HostAction} (h : HostStep s act t) (hs : s.registersWf = true) :
    t.registersWf = true := by
  obtain ⟨hcfg, hstatus, herr, hpos, hlen, hop⟩ := registersWf_iff.mp hs
  cases h with
  | wait h => exact h.registersWf hs
  | ignored | load | read => exact hs
  | decompress =>
    exact registersWf_iff.mpr ⟨hcfg, status_reserved_start hstatus _ _, BitVec.zero_and, BitVec.zero_and, hlen,
      fun _ => .inr (startDecompress_lastOp s)⟩
  | compress =>
    exact registersWf_iff.mpr ⟨hcfg, status_reserved_start hstatus _ _, BitVec.zero_and, BitVec.zero_and, hlen,
      fun _ => .inl (startCompress_lastOp s)⟩
  | @cfg v =>
    refine registersWf_iff.mpr ⟨?_, hstatus, herr, hpos, hlen, hop⟩
    exact (BitVec.and_assoc v _ _).trans BitVec.and_zero
  | inLen _ hv => exact registersWf_iff.mpr ⟨hcfg, hstatus, herr, hpos, hv, hop⟩
  | reset => exact resetBlock_registersWf s

/-- Settles O45: each register is written with its reserved bits 0, and only a command's start makes the engine BUSY. -/
theorem stepKeepsRegisters : Obligations.StepKeepsRegisters := by
  unfold Obligations.StepKeepsRegisters
  intro s t hs hstep
  obtain ⟨-, h⟩ | ⟨act, q, -, h⟩ := step_cases hstep
  · exact h.registersWf hs
  · exact h.registersWf (s := { s with host := q }) hs

/-- Where no command runs, the invariant is that of the buffers and the registers. -/
theorem inv_of_not_busy {s : State} (hb : s.buffersWf = true) (hr : s.registersWf = true) (hidle : s.engine ≠ .busy) :
    s.Inv :=
  ⟨hb, hr, fun h => absurd (decoding_iff.mp h).1 hidle, fun h => absurd (encoding_iff.mp h).1 hidle,
    fun h => absurd h hidle⟩

theorem resetBlock_inv (s : State) : (resetBlock s).Inv :=
  inv_of_not_busy rfl (resetBlock_registersWf s) nofun

/-- Settles O47: no command runs, and no slice is open. -/
theorem resetMeetsInvariant : Obligations.ResetMeetsInvariant :=
  ⟨resetBlock_inv State.reset, fun h => by rcases h with h | h <;> cases h⟩

end Sys2Proof.Machine

/-! ## The candidate's bytes (R43, R147 to R151) -/

namespace Sys2Proof.Machine

/-! ### An item's bytes and its tag bit -/

/-- The bytes an item packs (R148, R149). -/
def Item.bytes : Item → List Byte
  | .lit b => [b]
  | .ref p d l => halfBytes (refWord p d l)

/-- The bit an item sets in its group's tag byte, as item `n` of the group (R147). -/
def Item.flag (n : Nat) : Item → Byte
  | .lit _ => 0
  | .ref _ _ _ => 1#8 <<< n

/-- CAND holds the bytes `l`, and no more are packed. -/
def State.candIs (s : State) (l : List Byte) : Prop :=
  s.candLen.toNat = l.length ∧ ∀ k, k < l.length → s.cand.read k = l[k]?

theorem State.candIs.listed {s : State} {l : List Byte} (h : s.candIs l) : s.cand.listed 0 s.candLen.toNat := by
  obtain ⟨hlen, hread⟩ := h
  intro k hk
  rw [hlen] at hk
  rw [Nat.zero_add, hread k hk, List.getElem?_eq_getElem hk]
  rfl

theorem Memory.readEach_length {m : Memory} {a n : Nat} {bs : List Byte} (h : m.readEach a n = some bs) :
    bs.length = n := by
  induction n generalizing a bs with
  | zero =>
    cases h
    rfl
  | succ n ih =>
    unfold Memory.readEach at h
    split at h
    · cases h
    · obtain ⟨cs, hcs, rfl⟩ := Option.map_eq_some_iff.mp h
      rw [List.length_cons, ih hcs]

theorem candIs_of_listed {s : State} (h : s.cand.listed 0 s.candLen.toNat) : ∃ l, s.candIs l := by
  obtain ⟨l, hl⟩ := Memory.readEach_isSome h
  have hlen := Memory.readEach_length hl
  exact ⟨l, hlen.symm, fun k hk => by simpa using Memory.readEach_get hl k (hlen ▸ hk)⟩

/-- A push where CAND has room puts its byte behind the others. -/
theorem pushCand_candIs {s : State} {l : List Byte} (h : s.candIs l) (hroom : l.length < 4608) (b : Byte) :
    ∃ t, pushCand b s = .next t ∧ t.candIs (l ++ [b]) ∧ t = { s with cand := t.cand, candLen := t.candLen } := by
  obtain ⟨hlen, hread⟩ := h
  have hlt : s.candLen.toNat < 4608 := by omega
  refine ⟨_, pushCand_of_lt hlt b, ⟨?_, fun k hk => ?_⟩, rfl⟩
  · rw [List.length_append, List.length_singleton, ← hlen]
    exact candLen_add_one_toNat hlt
  · simp only [Memory.read_write, hlen]
    split
    case isTrue heq => rw [heq, List.getElem?_concat_length]
    case isFalse hne =>
      rw [List.length_append, List.length_singleton] at hk
      have hk' : k < l.length := by omega
      rw [hread k hk', List.getElem?_append_left hk']

/-- Setting a tag bit changes the one byte at ETAG_AT. -/
theorem setTagBit_candIs {s : State} {pre body : List Byte} {old : Byte} (h : s.candIs (pre ++ old :: body))
    (htag : s.etagAt.toNat = pre.length) :
    ∃ t, setTagBit s = .next t ∧ t.candIs (pre ++ (old ||| (1#8 <<< s.eidx.toNat)) :: body) ∧
      t = { s with cand := t.cand } := by
  obtain ⟨hlen, hread⟩ := h
  have hlength : ∀ v : Byte, (pre ++ v :: body).length = pre.length + body.length + 1 := fun v => by
    simp only [List.length_append, List.length_cons]
    omega
  have hold : s.cand.read s.etagAt.toNat = some old := by
    rw [htag, hread _ (by rw [hlength]; omega)]
    simp
  refine ⟨_, setTagBit_of_read hold, ⟨?_, fun k hk => ?_⟩, rfl⟩
  · rw [hlength] at hlen ⊢
    exact hlen
  · simp only [Memory.read_write, htag]
    split
    case isTrue heq => simp [heq]
    case isFalse hne =>
      rw [hread k (by rw [hlength] at hk ⊢; exact hk)]
      rcases Nat.lt_or_gt_of_ne hne with hlt | hgt
      · rw [List.getElem?_append_left hlt, List.getElem?_append_left hlt]
      · rw [List.getElem?_append_right hgt.le, List.getElem?_append_right hgt.le]
        obtain ⟨j, hj⟩ : ∃ j, k - pre.length = j + 1 := ⟨k - pre.length - 1, by omega⟩
        rw [hj, List.getElem?_cons_succ, List.getElem?_cons_succ]

theorem Item.bytes_lit (b : Byte) : (Item.lit b).bytes = [b] := rfl

theorem Item.bytes_ref (p d l : Nat) :
    (Item.ref p d l).bytes = [loByte (refWord p d l), hiByte (refWord p d l)] := rfl

/-- Packing an item into an open group whose tag byte stands at ETAG_AT. -/
theorem packItem_candIs {s : State} {pre body : List Byte} {old : Byte} (it : Item)
    (h : s.candIs (pre ++ old :: body)) (htag : s.etagAt.toNat = pre.length)
    (hroom : pre.length + 1 + body.length + it.bytes.length ≤ 4608) :
    ∃ t, packItem it s = .next t ∧ t.candIs (pre ++ (old ||| it.flag s.eidx.toNat) :: (body ++ it.bytes)) ∧
      t = { s with cand := t.cand, candLen := t.candLen } := by
  cases it with
  | lit b =>
    rw [Item.bytes_lit, List.length_singleton] at hroom
    obtain ⟨t, hpush, hcand, hframe⟩ := pushCand_candIs h (by simp; omega) b
    exact ⟨t, hpush, by simpa [Item.flag, Item.bytes] using hcand, hframe⟩
  | ref p d l =>
    rw [Item.bytes_ref, List.length_cons, List.length_singleton] at hroom
    obtain ⟨t, hbit, hcand, hframe⟩ := setTagBit_candIs h htag
    obtain ⟨u, hlo, hcandlo, hframelo⟩ := pushCand_candIs hcand (by simp; omega) (loByte (refWord p d l))
    obtain ⟨v, hhi, hcandhi, hframehi⟩ := pushCand_candIs hcandlo (by simp; omega) (hiByte (refWord p d l))
    refine ⟨v, by simp [packItem, hbit, hlo, hhi], ?_, ?_⟩
    · simpa [Item.flag, Item.bytes_ref] using hcandhi
    · rw [hframehi, hframelo, hframe]

/-- The group an item joins: the open one, or a new one behind the bytes so far. -/
def joinsGroup (s : State) (l pre : List Byte) (old : Byte) (body : List Byte) (n : Nat) : Prop :=
  if s.eidx = 8#4 then pre = l ∧ old = 0 ∧ body = [] ∧ n = 0
  else l = pre ++ old :: body ∧ s.etagAt.toNat = pre.length ∧ n = s.eidx.toNat

theorem openGroup_candIs {s : State} {l pre body : List Byte} {old : Byte} {n : Nat} (h : s.candIs l)
    (hjoin : joinsGroup s l pre old body n) (hroom : pre.length < 4608) :
    ∃ t, openGroup s = .next t ∧ t.candIs (pre ++ old :: body) ∧ t.etagAt.toNat = pre.length ∧ t.eidx.toNat = n := by
  unfold joinsGroup at hjoin
  split at hjoin
  case isTrue hclosed =>
    obtain ⟨rfl, rfl, rfl, rfl⟩ := hjoin
    obtain ⟨t, hpush, hcand, hframe⟩ := pushCand_candIs (s := { s with etagAt := s.candLen }) h hroom 0
    refine ⟨{ t with eidx := 0 }, by rw [openGroup, if_pos hclosed, hpush, andThen_next], hcand, ?_, rfl⟩
    rw [hframe]
    exact h.1
  case isFalse hopen =>
    obtain ⟨rfl, htag, rfl⟩ := hjoin
    exact ⟨s, openGroup_of_open hopen, h, htag, rfl⟩

/-- `add_item` by the bytes of CAND (R150): the item's bytes stand behind its group's, and its bit is set in the
group's tag byte. -/
theorem addItem_candIs {s : State} {l pre body : List Byte} {old : Byte} {n : Nat} (it : Item) (h : s.candIs l)
    (hjoin : joinsGroup s l pre old body n) (hn : n < 8)
    (hroom : pre.length + 1 + body.length + it.bytes.length ≤ 4608) :
    ∃ t, addItem it s = .next t ∧ t.candIs (pre ++ (old ||| it.flag n) :: (body ++ it.bytes)) ∧
      t.etagAt.toNat = pre.length ∧ t.eidx.toNat = n + 1 := by
  obtain ⟨t, hopen, hcand, htag, rfl⟩ := openGroup_candIs h hjoin (by omega)
  obtain ⟨u, hpack, hcand', hframe⟩ := packItem_candIs it hcand htag hroom
  have hkept : u.etagAt = t.etagAt ∧ u.eidx = t.eidx := by
    rw [hframe]
    exact ⟨rfl, rfl⟩
  refine ⟨_, addItem_of_packItem hopen hpack, hcand', ?_, ?_⟩
  · rw [← htag, ← hkept.1]
  · rw [hkept.2]
    exact BitVec.toNat_add_of_lt (by change t.eidx.toNat + 1 < 2 ^ 4; omega)

/-! ### The item chosen in a slice -/

/-- What the item chosen at `p` covers lies within the slice, and it packs at most as many bytes (R151). -/
theorem chooseItem_bounds {bytes : List Byte} {p : Nat} {it : Item} (h : chooseItem bytes p = some it) :
    p + it.length ≤ bytes.length ∧ 1 ≤ it.bytes.length ∧ it.bytes.length ≤ it.length ∧
      8 * it.bytes.length + 1 ≤ 9 * it.length := by
  have hp : p < bytes.length := by
    by_contra hle
    rw [chooseItem, List.drop_eq_nil_of_le (not_lt.mp hle)] at h
    cases h
  cases it with
  | lit b => simp [Item.length, Item.bytes]; omega
  | ref q d l =>
    obtain ⟨-, href, -⟩ := choiceIsNearestLongest bytes p hp
    obtain ⟨-, -, -, hl, hmatch, -⟩ := href q d l h
    have hmax := (le_matchAt_iff.mp hmatch.ge).1.trans (maxLen_le_sub _ _)
    simp only [Item.length, Item.bytes_ref, List.length_cons, List.length_nil]
    omega

end Sys2Proof.Machine

/-! ## The run invariant is kept (R31 to R45, R151) -/

namespace Sys2Proof.Machine

/-! ### The encoder -/

/-- The group the next item joins, wherever the tag byte of an open group lies in CAND. -/
theorem joinsGroup_of_open {s : State} {l : List Byte} (h : s.candIs l) (hidx : s.eidx.toNat ≤ 8)
    (htag : s.eidx.toNat < 8 → s.etagAt.toNat < s.candLen.toNat) :
    ∃ pre old body n, joinsGroup s l pre old body n ∧ n < 8 ∧ n = (if s.eidx = 8#4 then 0 else s.eidx.toNat) ∧
      pre.length + 1 + body.length = l.length + if s.eidx = 8#4 then 1 else 0 := by
  unfold joinsGroup
  by_cases hclosed : s.eidx = 8#4
  · refine ⟨l, 0, [], 0, ?_⟩
    simp [hclosed]
  · have hlt : s.eidx.toNat < 8 := lt_of_le_of_ne hidx fun he => hclosed (BitVec.eq_of_toNat_eq he)
    have hin : s.etagAt.toNat < l.length := h.1 ▸ htag hlt
    refine ⟨l.take s.etagAt.toNat, l[s.etagAt.toNat], l.drop (s.etagAt.toNat + 1), s.eidx.toNat, ?_⟩
    simp only [if_neg hclosed, List.cons_getElem_drop_succ, List.take_append_drop, List.length_take, List.length_drop]
    exact ⟨⟨trivial, by omega, trivial⟩, hlt, trivial, by omega⟩

/-- The item step in an open slice: the chosen item is packed, and the slice stays open (R151). -/
theorem addItem_of_sliceOpen {s : State} {bytes : List Byte} {it : Item} (hopen : s.sliceOpen)
    (hrun : s.inBuf.readRun s.sliceBase.toNat s.sliceLen.toNat = some bytes)
    (hit : chooseItem bytes s.epos.toNat = some it) :
    ∃ t, addItem it (advance it.length s) = .next t ∧ t.epos.toNat = s.epos.toNat + it.length ∧ t.sliceOpen ∧
      t.eidx.toNat = (if s.eidx = 8#4 then 0 else s.eidx.toNat) + 1 := by
  obtain ⟨hlo, hhi, hin, hepos, hidx, hbound, -, htag, hlisted⟩ := hopen
  obtain ⟨hcover, hsize1, hsize, hratio⟩ := chooseItem_bounds hit
  rw [Memory.readRun_length hrun] at hcover
  obtain ⟨l, hl⟩ := candIs_of_listed hlisted
  obtain ⟨pre, old, body, n, hjoin, hn, hneq, hlen⟩ := joinsGroup_of_open hl hidx htag
  have h8 : s.eidx = 8#4 → s.eidx.toNat = 8 := fun h => by rw [h]; rfl
  have hcount : 8 * (pre.length + 1 + body.length) + n ≤ 9 * s.epos.toNat + 16 - 8 := by
    rw [hlen, hneq, ← hl.1]
    split
    case isTrue h => have := h8 h; omega
    case isFalse => omega
  obtain ⟨t, hadd, hcand, hat, hnext⟩ :=
    addItem_candIs (s := advance it.length s) it hl hjoin hn (by omega)
  have hframe := addItem_onlyCandidate hadd
  have hkept : t.epos = s.epos + BitVec.ofNat 13 it.length ∧ t.sliceLen = s.sliceLen ∧ t.sliceBase = s.sliceBase ∧
      t.inLen = s.inLen := by
    rw [hframe]
    exact ⟨rfl, rfl, rfl, rfl⟩
  obtain ⟨hte, htl, htb, hti⟩ := hkept
  have hstep : t.epos.toNat = s.epos.toNat + it.length := by
    rw [hte, BitVec.toNat_add, BitVec.toNat_ofNat]
    omega
  have hlenT : t.candLen.toNat = pre.length + 1 + body.length + it.bytes.length := by
    rw [hcand.1]
    simp only [List.length_append, List.length_cons]
    omega
  refine ⟨t, hadd, hstep, ⟨?_, ?_, ?_, ?_, ?_, ?_, ?_, ?_, hcand.listed⟩, by rw [hnext, hneq]⟩
  all_goals
    simp only [htl, htb, hti, hstep, hnext, hlenT, hat]
    omega

theorem readRun_slice {s : State} (hb : s.buffersWf = true) (hl : s.inputLoaded = true)
    (hin : s.sliceBase.toNat + s.sliceLen.toNat ≤ s.inLen.toNat) :
    ∃ bytes, s.inBuf.readRun s.sliceBase.toNat s.sliceLen.toNat = some bytes := by
  obtain ⟨⟨hwf, -⟩, -⟩ := buffersWf_iff.mp hb
  obtain ⟨bs, hbs⟩ := Option.isSome_iff_exists.mp hl
  exact ⟨_, Memory.readRun_part hwf hbs hin⟩

/-- An encoder's step keeps the encoder's relations, or completes the command. -/
theorem EncoderStep.encoderInv {s t : State} (h : EncoderStep s t) (hs : s.encoderInv) :
    t.encoderInv ∨ t.engine = .done := by
  obtain ⟨n, hout⟩ := h.outAppends
  obtain ⟨hbase, holen, hstate⟩ := hs
  have hlen := h.frame.sameInput.inLen
  have hroom := hout.room holen
  cases h with
  | complete => exact .inr (finishCompress_engine s)
  | slice hs hlt =>
    refine .inl ⟨hbase, hroom, ?_⟩
    have hmod : (BitVec.ofNat 13 (min 4096 (s.inLen.toNat - s.sliceBase.toNat))).toNat =
        min 4096 (s.inLen.toNat - s.sliceBase.toNat) := Nat.mod_eq_of_lt (by omega)
    refine ⟨?_, ?_, ?_, ?_, ?_, ?_, ?_, ?_, ?_⟩
    all_goals simp only [hmod]
    · omega
    · omega
    · omega
    · exact Nat.zero_le _
    · exact le_rfl
    · exact le_rfl
    · exact fun h => absurd h (by decide)
    · exact fun h => absurd h (by decide)
    · exact fun k hk => absurd hk (Nat.not_lt_zero k)
  | itemsEnd hs hend =>
    rw [hs] at hstate
    exact .inl ⟨hbase, hroom, hstate, hend⟩
  | item hs hne hrun hit hadd =>
    rw [hs] at hstate
    obtain ⟨u, hu, -, hopen, -⟩ := addItem_of_sliceOpen hstate hrun hit
    obtain rfl : u = t := by simpa [hadd] using hu.symm
    have hkept : u.sliceBase = s.sliceBase ∧ u.estate = s.estate := by
      rw [addItem_onlyCandidate hadd]
      exact ⟨rfl, rfl⟩
    refine .inl ⟨by rw [hkept.1, hlen]; exact hbase, hroom, ?_⟩
    rw [hkept.2, hs]
    exact hopen
  | emit hs hsource hemit =>
    rw [hs] at hstate
    obtain ⟨⟨hlo, hhi, hin, -⟩, -⟩ := hstate
    refine .inl ⟨?_, hroom, trivial⟩
    rw [hlen]
    have hlt := s.inLen.isLt
    simp only [BitVec.toNat_add, BitVec.toNat_setWidth]
    omega

/-! ### The decoder -/

/-- The decoder's cursor moves by `n` bytes of the input without wrap-around (R32). -/
theorem ip_add_toNat {s : State} {n : Nat} (h : s.ip.toNat + n ≤ s.inLen.toNat) :
    (s.ip + BitVec.ofNat 33 n).toNat = s.ip.toNat + n := by
  have hlt := s.inLen.isLt
  rw [BitVec.toNat_add, BitVec.toNat_ofNat]
  omega

theorem chunkOpen_of_item {s : State} (hs : s.decoderInv) (hds : s.dstate = .item) :
    s.chunkOpen ∧ s.idx.toNat ≤ 8 := by
  obtain ⟨-, -, -, -, hstate⟩ := hs
  rwa [hds] at hstate

/-- Chunk setup at a header of two bytes inside the input (R175). -/
theorem chunkSetup_decoderInv {s : State} (hs : s.decoderInv) (hat : s.atHeader = true) (c : Bool) (m : BitVec 12) :
    (chunkSetup c m s).decoderInv := by
  obtain ⟨-, -, holen, hlisted, -⟩ := hs
  obtain ⟨-, -, hin⟩ := atHeader_iff.mp hat
  have hm := m.isLt
  have hip : (s.ip + 2).toNat = s.ip.toNat + 2 := ip_add_toNat hin
  have hsize : (chunkSize m).toNat = m.toNat + 1 := by
    rw [chunkSize_eq_ofNat, BitVec.toNat_ofNat]
    omega
  have hend : (s.ip + 2 + (chunkSize m).setWidth 33).toNat = s.ip.toNat + 2 + (m.toNat + 1) := by
    have hlt := s.inLen.isLt
    rw [BitVec.toNat_add, hip, BitVec.toNat_setWidth, hsize]
    omega
  refine ⟨hip.trans_le hin, Nat.zero_le _, holen, hlisted, ?_⟩
  cases c
  case false =>
    change 1 ≤ (chunkSize m).toNat ∧ (chunkSize m).toNat ≤ 4096 ∧ (s.ip + 2 + (chunkSize m).setWidth 33).toNat =
      (s.ip + 2).toNat + (chunkSize m).toNat
    omega
  case true =>
    change (s.ip + 2).toNat ≤ (s.ip + 2 + (chunkSize m).setWidth 33).toNat ∧
      (s.ip + 2 + (chunkSize m).setWidth 33).toNat ≤ s.inLen.toNat + 4096 ∧ s.olen.toNat = s.olen.toNat + 0
    omega

theorem pos_add_toNat {s : State} {n : Nat} (h : s.pos.toNat + n ≤ 4096) :
    (s.pos + BitVec.ofNat 13 n).toNat = s.pos.toNat + n := by
  rw [BitVec.toNat_add, BitVec.toNat_ofNat]
  omega

theorem idx_add_one_toNat {s : State} (h : s.idx.toNat < 8) : (s.idx + 1).toNat = s.idx.toNat + 1 :=
  BitVec.toNat_add_of_lt (by change s.idx.toNat + 1 < 2 ^ 4; omega)

theorem decoderInv_of_item {t : State} (hds : t.dstate = .item) (hip : t.ip.toNat ≤ t.inLen.toNat)
    (hpos : t.pos.toNat ≤ 4096) (holen : t.olen.toNat ≤ t.outCap.toNat) (hlisted : t.outBuf.listed 0 t.olen.toNat)
    (hchunk : t.chunkOpen) (hidx : t.idx.toNat ≤ 8) : t.decoderInv := by
  refine ⟨hip, hpos, holen, hlisted, ?_⟩
  rw [hds]
  exact ⟨hchunk, hidx⟩

/-- An item that appends `k` bytes and consumes `b` keeps the relations of an open chunk (R142, R144). -/
theorem itemToken_decoderInv {s u : State} {k b : Nat} (hs : s.decoderInv) (hds : s.dstate = .item)
    (hidx : s.idx.toNat < 8) (happ : Appends k s u) (hce : s.ip.toNat + b ≤ s.chunkEnd.toNat)
    (hin : s.ip.toNat + b ≤ s.inLen.toNat) (hfits : s.pos.toNat + k ≤ 4096) :
    State.decoderInv { u with
      pos := s.pos + BitVec.ofNat 13 k, ip := s.ip + BitVec.ofNat 33 b, idx := s.idx + 1 } := by
  obtain ⟨⟨-, hend, hwin⟩, -⟩ := chunkOpen_of_item hs hds
  obtain ⟨-, -, holen, hlisted, -⟩ := hs
  have hip := ip_add_toNat hin
  have hpos := pos_add_toNat hfits
  have hkept : u.inLen = s.inLen ∧ u.chunkEnd = s.chunkEnd ∧ u.outBase = s.outBase ∧ u.dstate = s.dstate := by
    rw [happ.frame]
    exact ⟨rfl, rfl, rfl, rfl⟩
  obtain ⟨hlen, hce', hbase, hds'⟩ := hkept
  refine decoderInv_of_item (hds'.trans hds) ?_ (hpos.trans_le hfits) (happ.out.room holen) (happ.out.listed hlisted)
    ⟨?_, ?_, ?_⟩ ((idx_add_one_toNat hidx).trans_le hidx)
  · exact (hip.trans_le hin).trans_eq (congrArg BitVec.toNat hlen.symm)
  · exact (hip.trans_le hce).trans_eq (congrArg BitVec.toNat hce'.symm)
  · rw [hce', hlen]
    exact hend
  · rw [happ.out.olen, hbase, hpos, hwin, Nat.add_assoc]

/-- At an item the budget is not spent, so a byte of it is left (R141). -/
theorem ip_lt_chunkEnd {s : State} (hle : s.ip.toNat ≤ s.chunkEnd.toNat) (hne : s.ip ≠ s.chunkEnd) :
    s.ip.toNat < s.chunkEnd.toNat :=
  lt_of_le_of_ne hle fun he => hne (BitVec.eq_of_toNat_eq he)

/-- A DECOMPRESS that completed, its cursors in bounds (R32, R35, R178). -/
structure State.decompressed (t : State) : Prop where
  engine : t.engine = .done
  dstate : t.dstate = .done
  ip : t.ip.toNat ≤ t.inLen.toNat
  pos : t.pos.toNat ≤ 4096

/-- A token keeps the decoder's relations, or completes the command. -/
theorem TokenStep.decoderInv {s t : State} {i : Instr} (h : TokenStep s i t) (hs : s.decoderInv) :
    t.decoderInv ∨ t.decompressed := by
  have hinv := hs
  obtain ⟨n, hout⟩ := h.outAppends
  obtain ⟨hip, hpos, holen, hlisted, hstate⟩ := hs
  have hroom := hout.room holen
  have hlistedT := hout.listed hlisted
  have hlen := h.frame.sameInput.inLen
  cases h with
  | failed => exact .inl hinv
  | endMark hat =>
    obtain ⟨-, -, hin⟩ := atHeader_iff.mp hat
    exact .inr ⟨finishDecompress_engine _, rfl, (ip_add_toNat hin).trans_le hin, hpos⟩
  | header _ hat => exact .inl (chunkSetup_decoderInv hinv hat _ _)
  | raw hat hin =>
    obtain ⟨-, hds, -⟩ := atRaw_iff.mp hat
    rw [hds] at hstate
    obtain ⟨-, hsize, -⟩ := hstate
    exact .inl ⟨hin.trans_eq (congrArg BitVec.toNat hlen).symm, hsize, hroom, hlistedT, trivial⟩
  | tag hat hin =>
    obtain ⟨-, hds, hne⟩ := atTag_iff.mp hat
    rw [hds] at hstate
    obtain ⟨hle, hend, hwin⟩ := hstate
    have hip1 : (s.ip + 1).toNat = s.ip.toNat + 1 := ip_add_toNat hin
    exact .inl ⟨hip1.trans_le hin, hpos, hroom, hlistedT, ⟨hip1.trans_le (ip_lt_chunkEnd hle hne), hend, hwin⟩,
      Nat.zero_le _⟩
  | lit hat hin hlt hfree =>
    obtain ⟨-, hds, hidx, hne⟩ := atItem_iff.mp (atItem_of_atLiteral hat)
    obtain ⟨⟨hle, -⟩, -⟩ := chunkOpen_of_item hinv hds
    exact .inl (itemToken_decoderInv (k := 1) (b := 1) hinv hds hidx (putOut_appends hfree _) (ip_lt_chunkEnd hle hne)
      hin hlt)
  | ref _ hat hce hin _ hfits hcopy =>
    obtain ⟨-, hds, hidx, -⟩ := atItem_iff.mp (atItem_of_atRef hat)
    exact .inl (itemToken_decoderInv (b := 2) hinv hds hidx (copyBytes_appends hcopy) hce hin hfits)

/-- A step of a running DECOMPRESS keeps the decoder's relations, an error included, or completes the command. -/
theorem EngineStep.decoderInv {s t : State} (h : EngineStep s t) (hd : s.decoding = true) (hs : s.decoderInv) :
    t.decoderInv ∨ t.decompressed := by
  obtain ⟨hbusy, hop⟩ := decoding_iff.mp hd
  have hinv := hs
  obtain ⟨hip, hpos, holen, hlisted, hstate⟩ := hs
  cases h with
  | stopped hidle => exact absurd hbusy hidle
  | failed => exact .inl hinv
  | inputEnd => exact .inr ⟨finishDecompress_engine s, rfl, hip, hpos⟩
  | chunkDone => exact .inl ⟨hip, hpos, holen, hlisted, trivial⟩
  | groupDone _ hds => exact .inl ⟨hip, hpos, holen, hlisted, (chunkOpen_of_item hinv hds).1⟩
  | token h => exact h.decoderInv hinv
  | encoder he =>
    rw [(encoding_iff.mp he).2] at hop
    cases hop

/-! ### The invariant (R24 to R45) -/

/-- A BUSY engine was BUSY with the same command before its step. -/
theorem EngineStep.busy {s t : State} (h : EngineStep s t) (ht : t.engine = .busy) : s.engine = .busy := by
  obtain ⟨-, c, -, rfl⟩ | hok := h.failed_or_unfailed
  · simp at ht
  · rcases hok.engine with he | he
    · exact he.symm.trans ht
    · rw [he] at ht
      cases ht

theorem EngineStep.encoderStep {s t : State} (h : EngineStep s t) (he : s.encoding = true) : EncoderStep s t := by
  obtain ⟨hbusy, hop⟩ := encoding_iff.mp he
  have hdec : s.decoding ≠ true := fun hd => by
    rw [(decoding_iff.mp hd).2] at hop
    cases hop
  cases h with
  | stopped hidle => exact absurd hbusy hidle
  | failed hd | inputEnd hd | chunkDone hd | groupDone hd => exact absurd hd hdec
  | token h => exact absurd h.decoding hdec
  | encoder _ h => exact h

theorem EngineStep.inv {s t : State} (h : EngineStep s t) (hs : s.Inv) : t.Inv := by
  obtain ⟨hb, hr, hdec, henc, hloaded⟩ := hs
  refine ⟨h.buffersWf hb, h.registersWf hr, fun hd => ?decoder, fun he => ?encoder, fun hbusy => ?loaded⟩
  case decoder =>
    obtain ⟨hbusy, hop⟩ := decoding_iff.mp hd
    have hds : s.decoding = true := decoding_iff.mpr ⟨h.busy hbusy, h.lastOp.symm.trans hop⟩
    exact (h.decoderInv hds (hdec hds)).resolve_right fun hdone => by simp [hdone.engine] at hbusy
  case encoder =>
    obtain ⟨hbusy, hop⟩ := encoding_iff.mp he
    have hes : s.encoding = true := encoding_iff.mpr ⟨h.busy hbusy, h.lastOp.symm.trans hop⟩
    exact (h.encoderStep hes).encoderInv (henc hes) |>.resolve_right (by simp [hbusy])
  case loaded =>
    rw [State.inputLoaded, h.sameInput.inBuf, h.sameInput.inLen]
    exact hloaded (h.busy hbusy)

theorem startDecompress_inv {s : State} (hb : s.buffersWf = true) (hr : (startDecompress s).registersWf = true)
    (hl : s.inputLoaded = true) : (startDecompress s).Inv := by
  have hempty : s.outBuf.listed 0 0 := fun k hk => absurd hk (Nat.not_lt_zero k)
  refine ⟨hb, hr, fun _ => ⟨Nat.zero_le _, Nat.zero_le _, Nat.zero_le _, hempty, trivial⟩, fun he => ?_, fun _ => hl⟩
  obtain ⟨-, hop⟩ := encoding_iff.mp he
  rw [startDecompress_lastOp] at hop
  cases hop

theorem startCompress_inv {s : State} (hb : s.buffersWf = true) (hr : (startCompress s).registersWf = true)
    (hl : s.inputLoaded = true) : (startCompress s).Inv := by
  refine ⟨hb, hr, fun hd => ?_, fun _ => ⟨Nat.zero_le _, Nat.zero_le _, trivial⟩, fun _ => hl⟩
  obtain ⟨-, hop⟩ := decoding_iff.mp hd
  rw [startCompress_lastOp] at hop
  cases hop

theorem HostStep.inv {s t : State} {act : HostAction} (h : HostStep s act t) (hs : s.Inv) : t.Inv := by
  have hinv := hs
  obtain ⟨hb, hr, -⟩ := hs
  have hbT := h.buffersWf hb
  have hrT := h.registersWf hr
  cases h with
  | wait h => exact h.inv hinv
  | ignored | read => exact hinv
  | decompress _ _ hl => exact startDecompress_inv hb hrT hl
  | compress _ _ hl => exact startCompress_inv hb hrT hl
  | cfg hidle | inLen hidle | load hidle => exact inv_of_not_busy hbT hrT hidle
  | reset => exact resetBlock_inv s

theorem step_inv {s t : State} (hs : s.Inv) (h : step s = .next t) : t.Inv := by
  obtain ⟨-, h⟩ | ⟨act, q, -, h⟩ := step_cases h
  · exact h.inv hs
  · exact h.inv (s := { s with host := q }) hs

/-- Settles O46: each half keeps its relations, the host starts a command in a state that meets them, and its other
writes need an engine that is not BUSY. -/
theorem stepKeepsRunInvariant : Obligations.StepKeepsRunInvariant := by
  unfold Obligations.StepKeepsRunInvariant
  exact fun s t hs hstep => step_inv hs hstep

end Sys2Proof.Machine

/-! ## Cursors and the index (R32, R35, R44) -/

namespace Sys2Proof.Machine

/-- A token never moves the decoder's cursor backward (R32). -/
theorem TokenStep.ip_le {s t : State} {i : Instr} (h : TokenStep s i t) (hs : s.decoderInv) :
    s.ip.toNat ≤ t.ip.toNat := by
  obtain ⟨-, -, -, -, hstate⟩ := hs
  cases h with
  | failed => exact le_rfl
  | endMark hat | header _ hat =>
    obtain ⟨-, -, hin⟩ := atHeader_iff.mp hat
    exact (Nat.le_add_right _ 2).trans_eq (ip_add_toNat hin).symm
  | raw hat =>
    obtain ⟨-, hds, -⟩ := atRaw_iff.mp hat
    rw [hds] at hstate
    obtain ⟨-, -, hend⟩ := hstate
    exact (Nat.le_add_right _ _).trans_eq hend.symm
  | tag _ hin | lit _ hin => exact (Nat.le_add_right _ 1).trans_eq (ip_add_toNat hin).symm
  | ref _ _ _ hin => exact (Nat.le_add_right _ 2).trans_eq (ip_add_toNat hin).symm

theorem EngineStep.ip_le {s t : State} (h : EngineStep s t) (hs : s.decoderInv) :
    s.ip.toNat ≤ t.ip.toNat := by
  cases h with
  | stopped | failed | inputEnd | chunkDone | groupDone => exact le_rfl
  | token h => exact h.ip_le hs
  | encoder _ h =>
    have hip : t.ip = s.ip := (congrArg State.ip h.frame :)
    rw [hip]

/-- Settles O51: the relations of the decoder hold after the step, an error included, or the command completed with its
cursors in bounds. -/
theorem cursorsStayInBounds : Obligations.CursorsStayInBounds := by
  unfold Obligations.CursorsStayInBounds
  intro s t hs hh hd hstep
  obtain ⟨-, -, hdec, -⟩ := hs
  have h := engineStep_of_step hh hstep
  have hinv := hdec hd
  rw [← h.sameInput.inLen]
  refine ⟨h.ip_le hinv, ?_⟩
  rcases h.decoderInv hd hinv with ⟨hip, hpos, -, -, hstate⟩ | hdone
  · refine ⟨hip, hpos, ?_⟩
    rintro (hds | hds) <;> rw [hds] at hstate
    · exact hstate.1
    · exact hstate.1.1
  · refine ⟨hdone.ip, hdone.pos, ?_⟩
    rw [hdone.dstate]
    rintro (hds | hds) <;> cases hds

/-- The index depends on three registers of the encoder. -/
theorem indexCovers_congr {s t : State} (hs : s.indexCovers) (hestate : t.estate = s.estate) (hepos : t.epos = s.epos)
    (hindex : t.mfIndex = s.mfIndex) : t.indexCovers := by
  unfold State.indexCovers
  rw [hestate, hepos, hindex]
  exact hs

/-- The positions an item covers join the covered ones, nearest first (R44). -/
theorem covered_append (p n : Nat) :
    ((List.range n).map (p + ·)).reverse ++ (List.range p).reverse = (List.range (p + n)).reverse := by
  rw [List.range_add, List.reverse_append]

theorem EncoderStep.indexCovers {s t : State} (h : EncoderStep s t) (hs : s.encoderInv) (hindex : s.indexCovers) :
    t.indexCovers := by
  obtain ⟨-, -, hstate⟩ := hs
  cases h with
  | complete => exact fun h => by rcases h with h | h <;> cases h
  | slice => exact fun _ => rfl
  | itemsEnd hs => exact fun _ => hindex (.inl hs)
  | item hs hne hrun hit hadd =>
    rw [hs] at hstate
    obtain ⟨u, hu, hepos, -⟩ := addItem_of_sliceOpen hstate hrun hit
    obtain rfl : u = t := by simpa [hadd] using hu.symm
    intro _
    rw [(congrArg State.mfIndex (addItem_onlyCandidate hadd) : u.mfIndex = _), hepos, ← covered_append,
      ← hindex (.inl hs)]
    rfl
  | emit => exact fun h => by rcases h with h | h <;> cases h

theorem EngineStep.indexCovers {s t : State} (h : EngineStep s t) (hs : s.Inv) (hindex : s.indexCovers) :
    t.indexCovers := by
  obtain ⟨-, -, -, henc, -⟩ := hs
  cases h with
  | stopped | failed | inputEnd | chunkDone | groupDone => exact indexCovers_congr hindex rfl rfl rfl
  | token h =>
    exact indexCovers_congr hindex (congrArg State.estate h.frame :) (congrArg State.epos h.frame :)
      (congrArg State.mfIndex h.frame :)
  | encoder he h => exact h.indexCovers (henc he) hindex

theorem HostStep.indexCovers {s t : State} {act : HostAction} (h : HostStep s act t) (hs : s.Inv)
    (hindex : s.indexCovers) : t.indexCovers := by
  cases h with
  | wait h => exact h.indexCovers hs hindex
  | ignored | decompress | cfg | inLen | load | read => exact indexCovers_congr hindex rfl rfl rfl
  | compress | reset => exact fun h => by rcases h with h | h <;> cases h

/-- Settles O49: the item step adds what it covers, the slice step empties the index, and nothing else writes it while a
slice is open. -/
theorem indexCoversSlice : Obligations.IndexCoversSlice := by
  unfold Obligations.IndexCoversSlice
  intro s t hs hindex hstep
  obtain ⟨-, h⟩ | ⟨act, q, -, h⟩ := step_cases hstep
  · exact h.indexCovers hs hindex
  · exact h.indexCovers (s := { s with host := q }) hs hindex

end Sys2Proof.Machine

/-! ## Tokens in their places (R90, R102) -/

namespace Sys2Proof.Machine

/-! ### Where the decoder fetches -/

/-- A token of the place stands here (R90, R102). -/
def State.stands (s : State) : Place → Prop
  | .command => False
  | .header => s.atHeader = true
  | .raw n => s.atRaw n = true
  | .tag => s.atTag = true
  | .literal => s.atLiteral = true
  | .reference pos => pos = s.pos.toNat ∧ s.atRef (bfc pos) = true

/-- What the engine fetches where a token is due: its bytes, past the checks that the fetch makes (R141, R246). -/
theorem fetchEngine_of_decoding {s : State} (hd : s.decoding = true) : fetchEngine s = fetchDecoder s := by
  obtain ⟨hbusy, hop⟩ := decoding_iff.mp hd
  rw [fetchEngine, if_pos hbusy, if_pos hop]

theorem fetchEngine_of_encoding {s : State} (he : s.encoding = true) : fetchEngine s = .other (encoderStep s) := by
  obtain ⟨hbusy, hop⟩ := encoding_iff.mp he
  have hne : s.lastOp ≠ 2#2 := by
    rw [hop]
    decide
  rw [fetchEngine, if_pos hbusy, if_neg hne, if_pos hop]

theorem fetchEngine_of_atHeader {s : State} (h : s.atHeader = true) : fetchEngine s = fetchToken .header 2 s := by
  obtain ⟨hd, hds, hin⟩ := atHeader_iff.mp h
  rw [fetchEngine_of_decoding hd, fetchDecoder, hds]
  exact (if_neg (by omega)).trans (if_neg (by omega))

theorem fetchEngine_of_atRaw {s : State} {n : Nat} (h : s.atRaw n = true) :
    fetchEngine s = fetchUnless (rawTruncated s) s (fetchToken (.raw n) n s) := by
  obtain ⟨hd, hds, rfl⟩ := atRaw_iff.mp h
  rw [fetchEngine_of_decoding hd, fetchDecoder, hds]
  rfl

theorem fetchEngine_of_atTag {s : State} (h : s.atTag = true) :
    fetchEngine s = fetchUnless (byteTruncated s) s (fetchToken .tag 1 s) := by
  obtain ⟨hd, hds, hne⟩ := atTag_iff.mp h
  rw [fetchEngine_of_decoding hd, fetchDecoder, hds]
  exact if_neg hne

theorem fetchEngine_of_atItem {s : State} (h : s.atItem = true) :
    fetchEngine s = if s.tagBit then fetchUnless (refTruncated s) s (fetchToken (.reference s.pos.toNat) 2 s)
      else fetchUnless (byteTruncated s) s (fetchToken .literal 1 s) := by
  obtain ⟨hd, hds, hidx, hne⟩ := atItem_iff.mp h
  have h8 : s.idx ≠ 8#4 := fun e => by simp [e] at hidx
  rw [fetchEngine_of_decoding hd, fetchDecoder, hds]
  exact (if_neg h8).trans ((if_neg hne).trans (if_neg (by omega)))

/-- The token due is the one the engine fetches. -/
theorem fetchEngine_of_tokenDue {s : State} {p : Place} {n : Nat} (h : s.tokenDue = some (p, n)) :
    fetchEngine s = fetchToken p n s := by
  unfold State.tokenDue at h
  split at h
  case isTrue hat =>
    cases h
    exact fetchEngine_of_atHeader hat
  split at h
  case isTrue hat =>
    cases h
    obtain ⟨hat, hin⟩ := Bool.and_eq_true_iff.mp hat
    rw [fetchEngine_of_atRaw hat, beq_iff_eq.mp hin, fetchUnless]
  split at h
  case isTrue hat =>
    cases h
    obtain ⟨hat, hin⟩ := Bool.and_eq_true_iff.mp hat
    rw [fetchEngine_of_atTag hat, beq_iff_eq.mp hin, fetchUnless]
  split at h
  case isTrue hat =>
    cases h
    obtain ⟨hat, hin⟩ := Bool.and_eq_true_iff.mp hat
    obtain ⟨hitem, hbit⟩ := atLiteral_iff.mp hat
    rw [fetchEngine_of_atItem hitem, hbit, beq_iff_eq.mp hin]
    rfl
  split at h
  case isTrue hat =>
    cases h
    obtain ⟨hat, hin⟩ := Bool.and_eq_true_iff.mp hat
    obtain ⟨hitem, hbit, -⟩ := atRef_iff.mp hat
    rw [fetchEngine_of_atItem hitem, hbit, beq_iff_eq.mp hin]
    rfl
  case isFalse => cases h

/-- Settles O9: the engine fetches the token due, in the state it takes its step in. -/
theorem stepRunsToken : Obligations.StepRunsToken := by
  unfold Obligations.StepRunsToken
  intro s p n bytes rest i hdue hin hrun hdec _
  refine ⟨fun hh => ?_, fun q hh => ?_⟩
  · exact step_of_fetch_instr ((fetch_of_host_nil hh).trans
      ((fetchEngine_of_tokenDue hdue).trans (fetchToken_eq_instr hin hrun hdec)))
  · have hfetch := fetchEngine_of_tokenDue (s := { s with host := q }) hdue
    rw [step_of_wait hh, hfetch, fetchToken_eq_instr (s := { s with host := q }) hin hrun hdec]
    rfl

/-! ### Refusals that the step never answers -/

/-- The answer refuses nothing as out of its place or as not modelled. -/
def Placed (a : Answer) : Prop :=
  a ≠ .refused .outOfPlace ∧ ∀ m, a ≠ .refused (.notModelled m)

theorem Placed.next (s : State) : Placed (.next s) := ⟨nofun, nofun⟩

theorem Placed.fault (r : Fault) : Placed (.fault r) := ⟨nofun, nofun⟩

theorem Placed.andThen {o : Answer} {f : State → Answer} (ho : Placed o) (hf : ∀ u, Placed (f u)) :
    Placed (andThen o f) := by
  cases o with
  | next u => exact hf u
  | fault r => exact .fault r
  | refused r => exact ho

theorem Placed.inPlace {here : Bool} {a : Answer} (hhere : here = true) (ha : Placed a) : Placed (inPlace here a) := by
  rwa [hhere, inPlace_true]

theorem Placed.checkedBy {c : Option Cause} {s : State} {a : Answer} (ha : Placed a) : Placed (checkedBy c s a) := by
  cases c with
  | none => exact ha
  | some e => exact .next _

theorem Placed.whenNotBusy {s : State} {a : Answer} (ha : Placed a) : Placed (whenNotBusy s a) := by
  unfold Machine.whenNotBusy
  split
  · exact ⟨nofun, nofun⟩
  · exact ha

theorem Placed.whenCommandMayStart {s : State} {a : Answer} (ha : Placed a) : Placed (whenCommandMayStart s a) := by
  refine .whenNotBusy ?_
  unfold whenBuffersApart
  split
  · exact ⟨nofun, nofun⟩
  unfold whenInputLoaded
  split
  · exact ha
  · exact ⟨nofun, nofun⟩

theorem append_placed (b : Byte) (s : State) : Placed (append b s) := by
  unfold append
  split
  · exact ⟨nofun, nofun⟩
  · exact .next _

theorem appendAll_placed (bs : List Byte) (s : State) : Placed (appendAll bs s) := by
  induction bs generalizing s with
  | nil => exact .next s
  | cons b bs ih => exact (append_placed b s).andThen ih

theorem copyBytes_placed (d l : Nat) (s : State) : Placed (copyBytes d l s) := by
  induction l generalizing s with
  | zero => exact .next s
  | succ l ih =>
    unfold copyBytes
    split
    · exact .fault _
    split
    · exact .fault _
    · exact (append_placed _ s).andThen ih

/-- A token in its place is neither refused for it nor without a meaning. -/
theorem exec_placed {i : Instr} {p : Place} {s : State} (hi : i.standsAt p = true) (hs : s.stands p) :
    Placed (exec i s) := by
  cases i
  case endMark | hdrR | hdrC =>
    obtain rfl : p = .header := by simpa [Instr.standsAt] using hi
    exact .inPlace hs (.next _)
  case hdrRNs | hdrCNs =>
    obtain rfl : p = .header := by simpa [Instr.standsAt] using hi
    exact .inPlace hs (.checkedBy (.next _))
  case raw payload =>
    obtain rfl : p = .raw payload.length := by simpa [Instr.standsAt] using hi
    exact .inPlace hs (.checkedBy ((appendAll_placed payload s).andThen fun _ => .next _))
  case tag =>
    obtain rfl : p = .tag := by simpa [Instr.standsAt] using hi
    exact .inPlace hs (.checkedBy (.next _))
  case lit b =>
    obtain rfl : p = .literal := by simpa [Instr.standsAt] using hi
    exact .inPlace hs (.checkedBy (.checkedBy ((append_placed b s).andThen fun _ => .next _)))
  case cmdNop | cmdCompress | cmdDecompress | cmdRsvd =>
    obtain rfl : p = .command := by simpa [Instr.standsAt] using hi
    exact hs.elim
  all_goals
    obtain ⟨pos, rfl, hb⟩ := place_of_standsAt_ref rfl hi
    obtain ⟨-, hat⟩ := hs
    rw [hb] at hat
    exact .inPlace hat (.checkedBy (.checkedBy ((copyBytes_placed _ _ s).andThen fun _ => .next _)))

theorem pushCand_placed (b : Byte) (s : State) : Placed (pushCand b s) := by
  unfold pushCand
  split
  · exact .fault _
  · exact .next _

theorem openGroup_placed (s : State) : Placed (openGroup s) := by
  unfold openGroup
  split
  · exact (pushCand_placed _ _).andThen fun _ => .next _
  · exact .next s

theorem packItem_placed (it : Item) (s : State) : Placed (packItem it s) := by
  cases it with
  | lit b => exact pushCand_placed b s
  | ref p d l =>
    refine .andThen ?_ fun t => (pushCand_placed _ t).andThen fun u => pushCand_placed _ u
    unfold setTagBit
    split
    · exact .fault _
    · exact .next _

theorem addItem_placed (it : Item) (s : State) : Placed (addItem it s) :=
  (openGroup_placed s).andThen fun t => (packItem_placed it t).andThen fun _ => .next _

theorem withSlice_placed {s : State} {f : List Byte → Answer} (hf : ∀ bytes, Placed (f bytes)) :
    Placed (withSlice s f) := by
  unfold withSlice
  split
  · exact .fault _
  split
  · exact ⟨nofun, nofun⟩
  · exact hf _

theorem encoderStep_placed (s : State) : Placed (encoderStep s) := by
  have hemit : ∀ c payload, Placed (andThen (emitChunk c payload s) nextSlice) := fun c payload =>
    (appendAll_placed _ s).andThen fun _ => .next _
  unfold encoderStep
  split
  case h_1 =>
    unfold sliceStep
    split
    · exact .next _
    split
    · exact .fault _
    · exact .next _
  case h_2 =>
    unfold itemStep
    split
    · exact .next _
    · refine withSlice_placed fun bytes => ?_
      split
      · exact .fault _
      · exact addItem_placed _ _
  case h_3 =>
    unfold emitStep
    split
    · exact .fault _
    split
    · exact withSlice_placed fun bytes => hemit _ _
    split
    · exact .fault _
    · exact hemit _ _
  case h_4 | h_5 => exact .fault _

theorem fetchToken_placed {s : State} {p : Place} {n : Nat} (hs : s.stands p) : Placed (fetchToken p n s).answer := by
  unfold fetchToken
  split
  · exact .fault _
  split
  · exact ⟨nofun, nofun⟩
  split
  case h_1 i rest hdec => exact exec_placed (encodeOfDecode p _ rest i hdec).2.2 hs
  case h_2 => exact .fault _

theorem fetchUnless_placed {s : State} {c : Option Cause} {f : Fetched} (hf : Placed f.answer) :
    Placed (fetchUnless c s f).answer := by
  cases c with
  | none => exact hf
  | some e => exact .next _

theorem fetchDecoder_placed {s : State} (hd : s.decoding = true) : Placed (fetchDecoder s).answer := by
  unfold fetchDecoder
  split
  case h_1 hds =>
    unfold fetchHeader
    split
    · exact .next _
    split
    · exact .next _
    by_cases hin : s.ip.toNat + 2 ≤ s.inLen.toNat
    · exact fetchToken_placed (p := .header) (atHeader_iff.mpr ⟨hd, hds, hin⟩)
    · unfold fetchToken
      rw [if_pos (not_le.mp hin)]
      exact .fault _
  case h_2 hds => exact fetchUnless_placed (fetchToken_placed (p := .raw _) (atRaw_iff.mpr ⟨hd, hds, rfl⟩))
  case h_3 hds =>
    unfold fetchTag
    split
    · exact .next _
    case isFalse hne => exact fetchUnless_placed (fetchToken_placed (p := .tag) (atTag_iff.mpr ⟨hd, hds, hne⟩))
  case h_4 hds =>
    unfold fetchItem
    split
    · exact .next _
    case isFalse h8 =>
    split
    · exact .next _
    case isFalse hne =>
    split
    · exact .fault _
    case isFalse hle =>
    have hidx : s.idx.toNat < 8 := lt_of_le_of_ne (not_lt.mp hle) fun he => h8 (BitVec.eq_of_toNat_eq he)
    have hitem := atItem_iff.mpr ⟨hd, hds, hidx, hne⟩
    split
    case isTrue hbit =>
      exact fetchUnless_placed (fetchToken_placed (p := .reference _) ⟨rfl, atRef_iff.mpr ⟨hitem, hbit, rfl⟩⟩)
    case isFalse hbit =>
      exact fetchUnless_placed
        (fetchToken_placed (p := .literal) (atLiteral_iff.mpr ⟨hitem, Bool.not_eq_true _ ▸ hbit⟩))
  case h_5 | h_6 => exact .fault _

theorem fetchEngine_placed (s : State) : Placed (fetchEngine s).answer := by
  unfold fetchEngine
  split
  case isTrue hbusy =>
    split
    case isTrue hop => exact fetchDecoder_placed (decoding_iff.mpr ⟨hbusy, hop⟩)
    case isFalse =>
      split
      · exact encoderStep_placed s
      · exact .fault _
  case isFalse => exact .next s

theorem exec_decodeCmd_placed (w : Word) (s : State) : Placed (exec (decodeCmd w) s) := by
  rcases op_cases w with hop | hop | hop | hop
  · rw [decodeCmd_of_op_zero hop]
    exact .whenNotBusy (.next s)
  · rw [decodeCmd_of_op_one hop]
    exact .whenCommandMayStart (.next _)
  · rw [decodeCmd_of_op_two hop]
    exact .whenCommandMayStart (.next _)
  · rw [decodeCmd_of_op_three hop]
    exact .whenNotBusy (.next s)

theorem writeRegister_placed (n : Nat) (v : Word) (s : State) : Placed (writeRegister n v s) := by
  unfold writeRegister
  split
  case h_1 => exact .whenNotBusy (.next _)
  case h_2 =>
    refine .whenNotBusy ?_
    split
    · exact ⟨nofun, nofun⟩
    · exact .next _
  case h_3 => exact .next s

theorem loadInput_placed (a : Word) (b : Byte) (s : State) : Placed (loadInput a b s) := by
  unfold loadInput
  split
  · exact .fault _
  · exact .whenNotBusy (.next _)

theorem readInput_placed (a : Word) (s : State) : Placed (readInput a s) := by
  unfold readInput
  split
  · exact .fault _
  split <;> exact .next _

theorem readOutput_placed (a : Word) (s : State) : Placed (readOutput a s) := by
  unfold readOutput
  split
  · exact .fault _
  split
  · split <;> exact .next _
  · exact .next _

theorem fetchHost_placed (act : HostAction) (s : State) : Placed (fetchHost act s).answer := by
  unfold fetchHost
  split
  case h_1 => exact fetchEngine_placed s
  case h_2 => exact exec_decodeCmd_placed _ s
  case h_3 => exact writeRegister_placed _ _ s
  case h_4 | h_8 => exact .next _
  case h_5 => exact loadInput_placed _ _ s
  case h_6 => exact readInput_placed _ s
  case h_7 => exact readOutput_placed _ s

/-- Settles O11: the fetch tests what a token's place asks before it hands the token on. -/
theorem tokensStandInPlace : Obligations.TokensStandInPlace := by
  unfold Obligations.TokensStandInPlace
  have hplaced : ∀ s, Placed (step s) := fun s => by
    rw [step_eq_fetch_answer]
    unfold fetch
    split
    · exact fetchEngine_placed s
    · exact fetchHost_placed _ _
  exact ⟨fun s => (hplaced s).1, fun s => (hplaced s).2⟩

end Sys2Proof.Machine

/-! ## Progress: in a run the engine only stops for OUT_CAP (R78, R248, R277) -/

namespace Sys2Proof.Machine

/-! ### Answers that go on -/

/-- The answer is a next state, or the refusal of an append past OUT_CAP (R78). -/
def Progresses (a : Answer) : Prop :=
  (∃ t, a = .next t) ∨ a = .refused .outputFull

theorem Progresses.next (s : State) : Progresses (.next s) := .inl ⟨s, rfl⟩

theorem Progresses.andThen {o : Answer} {f : State → Answer} (ho : Progresses o)
    (hf : ∀ u, o = .next u → Progresses (f u)) : Progresses (andThen o f) := by
  obtain ⟨u, rfl⟩ | rfl := ho
  · exact hf u rfl
  · exact .inr rfl

theorem Progresses.checkedBy {c : Option Cause} {s : State} {a : Answer} (ha : c = none → Progresses a) :
    Progresses (checkedBy c s a) := by
  cases c with
  | none => exact ha rfl
  | some e => exact .next _

theorem Progresses.inPlace {here : Bool} {a : Answer} (hhere : here = true) (ha : Progresses a) :
    Progresses (inPlace here a) := by
  rwa [hhere, inPlace_true]

theorem append_progresses (b : Byte) (s : State) : Progresses (append b s) := by
  obtain ⟨-, h⟩ | ⟨-, h⟩ := append_cases b s
  · exact .inl ⟨_, h⟩
  · exact .inr h

theorem appendAll_progresses (bs : List Byte) (s : State) : Progresses (appendAll bs s) := by
  induction bs generalizing s with
  | nil => exact .next s
  | cons b bs ih => exact (append_progresses b s).andThen fun u _ => ih u

/-- The copy reads only bytes that have values, and stops only at OUT_CAP (R144, R277). -/
theorem copyBytes_progresses {d l : Nat} {s : State} (hd0 : 1 ≤ d) (hd : d ≤ s.olen.toNat)
    (hw : s.outBuf.listed (s.olen.toNat - d) d) : Progresses (copyBytes d l s) := by
  induction l generalizing s with
  | zero => exact .next s
  | succ l ih =>
    obtain ⟨b, hb⟩ := Option.isSome_iff_exists.mp (hw 0 hd0)
    rw [copyBytes, if_neg hd.not_gt, show s.outBuf.read (s.olen.toNat - d) = some b from hb]
    refine (append_progresses b s).andThen fun u hu => ?_
    obtain ⟨hroom, rfl⟩ := append_eq_next hu
    have hlen := putOut_olen_toNat b s hroom
    exact ih (by rw [hlen]; omega) (by rw [hlen]; exact listed_putOut hd hw b)

/-- Appends that do not fit below OUT_CAP are refused (R78). -/
theorem refused_of_appends {n : Nat} {s : State} {a : Answer} (ha : Progresses a)
    (happ : ∀ u, a = .next u → Appends n s u) (holen : s.olen.toNat ≤ s.outCap.toNat)
    (hfull : s.outCap.toNat < s.olen.toNat + n) : a = .refused .outputFull := by
  refine ha.resolve_left fun ⟨u, hu⟩ => ?_
  have hout := (happ u hu).out
  have hroom := hout.room holen
  rw [hout.olen, hout.outCap] at hroom
  omega

/-! ### The decoder -/

/-- A back-reference in a run finds the bytes it copies (R143, R277). -/
theorem copyBytes_progresses_of_item {d l : Nat} {s : State} (hs : s.decoderInv) (hds : s.dstate = .item) (hd0 : d ≠ 0)
    (hd : d ≤ s.pos.toNat) : Progresses (copyBytes d l s) := by
  obtain ⟨⟨-, -, hwin⟩, -⟩ := chunkOpen_of_item hs hds
  obtain ⟨-, -, -, hlisted, -⟩ := hs
  have hdo : d ≤ s.olen.toNat := by omega
  exact copyBytes_progresses (Nat.one_le_iff_ne_zero.mpr hd0) hdo (listed_last hdo hlisted)

theorem backReference_progresses {i : Instr} {ob d l : Nat} {s : State} (hi : refOperands i = some (ob, d, l))
    (hs : s.decoderInv) (hat : s.atRef ob = true) : Progresses (exec i s) := by
  have hd0 := ne_zero_of_refOperands hi
  rw [exec_of_refOperands hi]
  refine .inPlace hat (.checkedBy fun _ => .checkedBy fun hmal => ?_)
  obtain ⟨hd, -⟩ := (refMalformed_eq_none_iff hd0).mp hmal
  exact (copyBytes_progresses_of_item hs (dstate_of_atItem (atItem_of_atRef hat)) hd0 hd).andThen fun _ _ => .next _

theorem exec_progresses {i : Instr} {p : Place} {s : State} (hinv : s.decoderInv) (hi : i.standsAt p = true)
    (hs : s.stands p) : Progresses (exec i s) := by
  cases i
  case endMark | hdrR | hdrC =>
    obtain rfl : p = .header := by simpa [Instr.standsAt] using hi
    exact .inPlace hs (.next _)
  case hdrRNs | hdrCNs =>
    obtain rfl : p = .header := by simpa [Instr.standsAt] using hi
    exact .inPlace hs (.checkedBy fun _ => .next _)
  case raw payload =>
    obtain rfl : p = .raw payload.length := by simpa [Instr.standsAt] using hi
    exact .inPlace hs (.checkedBy fun _ => (appendAll_progresses payload s).andThen fun _ _ => .next _)
  case tag =>
    obtain rfl : p = .tag := by simpa [Instr.standsAt] using hi
    exact .inPlace hs (.checkedBy fun _ => .next _)
  case lit b =>
    obtain rfl : p = .literal := by simpa [Instr.standsAt] using hi
    exact .inPlace hs (.checkedBy fun _ => .checkedBy fun _ => (append_progresses b s).andThen fun _ _ => .next _)
  case cmdNop | cmdCompress | cmdDecompress | cmdRsvd =>
    obtain rfl : p = .command := by simpa [Instr.standsAt] using hi
    exact hs.elim
  all_goals
    obtain ⟨pos, rfl, hb⟩ := place_of_standsAt_ref rfl hi
    obtain ⟨-, hat⟩ := hs
    rw [hb] at hat
    exact backReference_progresses rfl hinv hat

/-- How many bytes the token at a place has (R90). -/
def placeBytes : Place → Nat
  | .command => 4
  | .header => 2
  | .raw n => n
  | .tag => 1
  | .literal => 1
  | .reference _ => 2

/-- The decoder accepts any bytes of the place's length, a raw payload of 1 to 4096 bytes (R90, R92). -/
theorem decode_accepts {p : Place} {bytes : List Byte} (hlen : bytes.length = placeBytes p)
    (hraw : ∀ n, p = .raw n → 1 ≤ n ∧ n ≤ 4096) : ∃ i, decode p bytes = .token i [] := by
  cases p with
  | command =>
    obtain ⟨b0, b1, b2, b3, rfl⟩ := List.length_eq_four.mp hlen
    exact ⟨_, rfl⟩
  | header | reference =>
    obtain ⟨b0, b1, rfl⟩ := List.length_eq_two.mp hlen
    exact ⟨_, rfl⟩
  | raw n =>
    obtain rfl : bytes.length = n := hlen
    obtain ⟨hlo, hhi⟩ := hraw _ rfl
    exact ⟨_, decode_raw_of_wellFormed (by simp [Instr.wellFormed, hlo, hhi])⟩
  | tag | literal =>
    obtain ⟨b, rfl⟩ := List.length_eq_one_iff.mp hlen
    exact ⟨_, rfl⟩

/-- Where the input is loaded, a token inside it is fetched and runs (R61, R275). -/
theorem fetchToken_progresses {s : State} {p : Place} (hs : s.Inv) (hinv : s.decoderInv) (hl : s.inputLoaded = true)
    (hst : s.stands p) (hin : s.ip.toNat + placeBytes p ≤ s.inLen.toNat) (hraw : ∀ n, p = .raw n → 1 ≤ n ∧ n ≤ 4096) :
    Progresses (fetchToken p (placeBytes p) s).answer := by
  obtain ⟨hb, -⟩ := hs
  obtain ⟨⟨hwf, -⟩, -⟩ := buffersWf_iff.mp hb
  obtain ⟨bs, hbs⟩ := Option.isSome_iff_exists.mp hl
  have hrun := Memory.readRun_part hwf hbs hin
  obtain ⟨i, hdec⟩ := decode_accepts (Memory.readRun_length hrun) hraw
  rw [fetchToken_eq_instr hin hrun hdec]
  exact exec_progresses hinv (encodeOfDecode p _ _ i hdec).2.2 hst

theorem fetchUnless_progresses {s : State} {c : Option Cause} {f : Fetched} (hf : c = none → Progresses f.answer) :
    Progresses (fetchUnless c s f).answer := by
  cases c with
  | none => exact hf rfl
  | some e => exact .next _

theorem fetchDecoder_progresses {s : State} (hs : s.Inv) (hd : s.decoding = true) :
    Progresses (fetchDecoder s).answer := by
  have hinvs := hs
  obtain ⟨-, -, hdec, -, hload⟩ := hs
  have hinv := hdec hd
  have hl := hload (decoding_iff.mp hd).1
  have hfetch : ∀ p, s.stands p → s.ip.toNat + placeBytes p ≤ s.inLen.toNat → (∀ n, p = .raw n → 1 ≤ n ∧ n ≤ 4096) →
      Progresses (fetchToken p (placeBytes p) s).answer := fun p => fetchToken_progresses hinvs hinv hl
  have hstate := hinv
  obtain ⟨hip, -, -, -, hstate⟩ := hstate
  unfold fetchDecoder
  split
  case h_1 hds =>
    unfold fetchHeader
    split
    · exact .next _
    split
    · exact .next _
    have hin : s.ip.toNat + 2 ≤ s.inLen.toNat := by omega
    exact hfetch .header (atHeader_iff.mpr ⟨hd, hds, hin⟩) hin nofun
  case h_2 hds =>
    rw [hds] at hstate
    obtain ⟨hlo, hhi, hend⟩ := hstate
    refine fetchUnless_progresses fun hnone => ?_
    have hin := rawTruncated_eq_none_iff.mp hnone
    refine hfetch (.raw s.size.toNat) (atRaw_iff.mpr ⟨hd, hds, rfl⟩) (hend ▸ hin) fun n hn => ?_
    cases hn
    exact ⟨hlo, hhi⟩
  case h_3 hds =>
    unfold fetchTag
    split
    · exact .next _
    case isFalse hne =>
      refine fetchUnless_progresses fun hnone => ?_
      exact hfetch .tag (atTag_iff.mpr ⟨hd, hds, hne⟩) (byteTruncated_eq_none_iff.mp hnone) nofun
  case h_4 hds =>
    obtain ⟨-, hidx⟩ := chunkOpen_of_item hinv hds
    unfold fetchItem
    split
    · exact .next _
    case isFalse h8 =>
    split
    · exact .next _
    case isFalse hne =>
    rw [if_neg hidx.not_gt]
    have hlt : s.idx.toNat < 8 := lt_of_le_of_ne hidx fun he => h8 (BitVec.eq_of_toNat_eq he)
    have hitem := atItem_iff.mpr ⟨hd, hds, hlt, hne⟩
    split
    case isTrue hbit =>
      refine fetchUnless_progresses fun hnone => ?_
      exact hfetch (.reference _) ⟨rfl, atRef_iff.mpr ⟨hitem, hbit, rfl⟩⟩ (refTruncated_eq_none_iff.mp hnone).2 nofun
    case isFalse hbit =>
      refine fetchUnless_progresses fun hnone => ?_
      exact hfetch .literal (atLiteral_iff.mpr ⟨hitem, Bool.not_eq_true _ ▸ hbit⟩)
        (byteTruncated_eq_none_iff.mp hnone) nofun
  case h_5 hds | h_6 hds =>
    rw [hds] at hstate
    exact hstate.elim

/-! ### The encoder -/

theorem chooseItem_isSome {bytes : List Byte} {p : Nat} (hp : p < bytes.length) : ∃ it, chooseItem bytes p = some it :=
  (choiceIsNearestLongest bytes p hp).1

/-- The item step of an open slice with items left: the item chosen is packed, and the slice stays open. -/
theorem itemStep_of_sliceOpen {s : State} {bytes : List Byte} (hopen : s.sliceOpen) (hne : s.epos ≠ s.sliceLen)
    (hrun : s.inBuf.readRun s.sliceBase.toNat s.sliceLen.toNat = some bytes) :
    ∃ it t, chooseItem bytes s.epos.toNat = some it ∧ itemStep s = .next t ∧
      addItem it (advance it.length s) = .next t ∧ t.epos.toNat = s.epos.toNat + it.length ∧ t.sliceOpen ∧
      t.eidx.toNat = (if s.eidx = 8#4 then 0 else s.eidx.toNat) + 1 := by
  have hslice := hopen
  obtain ⟨-, -, hin, hepos, -⟩ := hslice
  have hlt : s.epos.toNat < s.sliceLen.toNat := lt_of_le_of_ne hepos fun he => hne (BitVec.eq_of_toNat_eq he)
  obtain ⟨it, hit⟩ := chooseItem_isSome (bytes := bytes) (hlt.trans_eq (Memory.readRun_length hrun).symm)
  obtain ⟨t, hadd, hrest⟩ := addItem_of_sliceOpen hopen hrun hit
  refine ⟨it, t, hit, ?_, hadd, hrest⟩
  rw [itemStep, if_neg hne, withSlice_of_readRun hin hrun]
  simp only [hit, hadd]

theorem step_of_item {s : State} (hh : s.host = []) (he : s.encoding = true) (hs : s.estate = .item) :
    step s = itemStep s := by
  rw [step_of_encoding hh he, encoderStep, hs]

theorem sliceOpen_of_item {s : State} (hinv : s.Inv) (he : s.encoding = true) (hs : s.estate = .item) :
    s.sliceOpen := by
  obtain ⟨-, -, -, henc, -⟩ := hinv
  obtain ⟨-, -, hstate⟩ := henc he
  rwa [hs] at hstate

/-- Settles O33: the invariant's open slice has an item at EPOS, and room for it in CAND. -/
theorem itemStep_packs_or_ends : Obligations.ItemStep := by
  unfold Obligations.ItemStep
  intro s bytes hh he hs hinv hrun
  rw [step_of_item hh he hs]
  refine ⟨fun hend => if_pos hend, fun hne => ?_⟩
  obtain ⟨it, t, hit, hstep, hadd, hepos, -, heidx⟩ :=
    itemStep_of_sliceOpen (sliceOpen_of_item hinv he hs) hne hrun
  have hframe := addItem_onlyCandidate hadd
  have hestate : t.estate = s.estate := (congrArg State.estate hframe :)
  exact ⟨it, t, hit, hstep, hadd, hepos, hestate.trans hs, (congrArg State.olen hframe :), heidx⟩

/-- What the emit step writes, raw or compressed: the bytes are there to be read (R204). -/
theorem emitStep_eq_chunk {s : State} (hinv : s.Inv) (he : s.encoding = true) (hs : s.estate = .emit) :
    ∃ c payload, emitStep s = andThen (emitChunk c payload s) nextSlice ∧
      payload.length = min s.sliceLen.toNat s.candLen.toNat := by
  obtain ⟨-, -, hin, -⟩ := slice_of_emit hinv he hs
  have hparts := hinv
  obtain ⟨hb, -, -, henc, hload⟩ := hparts
  by_cases hle : s.sliceLen.toNat ≤ s.candLen.toNat
  · obtain ⟨bytes, hrun⟩ := readRun_slice hb (hload (encoding_iff.mp he).1) hin
    refine ⟨_, bytes, emitStep_raw hinv he hs hle hrun, ?_⟩
    rw [Memory.readRun_length hrun, min_eq_left hle]
  · obtain ⟨-, -, hwf, -⟩ := buffersWf_iff.mp hb
    obtain ⟨-, -, hstate⟩ := henc he
    rw [hs] at hstate
    obtain ⟨⟨-, -, -, -, -, -, -, -, hlisted⟩, -⟩ := hstate
    obtain ⟨bytes, hread⟩ := Memory.readEach_isSome hlisted
    have hrun := (Memory.readRun_eq_readEach s.cand 0 s.candLen.toNat hwf).trans hread
    refine ⟨_, bytes, emitStep_compressed hinv he hs (not_le.mp hle) hrun, ?_⟩
    rw [Memory.readRun_length hrun, min_eq_right (not_le.mp hle).le]

theorem encoderStep_progresses {s : State} (hs : s.Inv) (he : s.encoding = true) : Progresses (encoderStep s) := by
  have hparts := hs
  obtain ⟨hb, -, -, henc, hload⟩ := hparts
  obtain ⟨hbase, -, hstate⟩ := henc he
  unfold encoderStep
  split
  case h_1 =>
    unfold sliceStep
    split
    · exact .next _
    · rw [if_neg hbase.not_gt]
      exact .next _
  case h_2 hes =>
    by_cases hend : s.epos = s.sliceLen
    · rw [itemStep, if_pos hend]
      exact .next _
    · have hopen := sliceOpen_of_item hs he hes
      have hslice := hopen
      obtain ⟨-, -, hin, -⟩ := hslice
      obtain ⟨bytes, hrun⟩ := readRun_slice hb (hload (encoding_iff.mp he).1) hin
      obtain ⟨it, t, -, hstep, -⟩ := itemStep_of_sliceOpen hopen hend hrun
      exact .inl ⟨t, hstep⟩
  case h_3 hes =>
    obtain ⟨c, payload, hemit, -⟩ := emitStep_eq_chunk hs he hes
    rw [hemit]
    exact (appendAll_progresses _ s).andThen fun u _ => .next _
  case h_4 hes | h_5 hes =>
    rw [hes] at hstate
    exact hstate.elim

/-! ### The engine -/

theorem fetchEngine_progresses {s : State} (hs : s.Inv) : Progresses (fetchEngine s).answer := by
  by_cases hbusy : s.engine = .busy
  · have hparts := hs
    obtain ⟨-, hr, -⟩ := hparts
    obtain ⟨-, -, -, -, -, hop⟩ := registersWf_iff.mp hr
    rcases hop hbusy with hop | hop
    · have he := encoding_iff.mpr ⟨hbusy, hop⟩
      rw [fetchEngine_of_encoding he]
      exact encoderStep_progresses hs he
    · have hd := decoding_iff.mpr ⟨hbusy, hop⟩
      rw [fetchEngine_of_decoding hd]
      exact fetchDecoder_progresses hs hd
  · rw [fetchEngine, if_neg hbusy]
    exact .next s

theorem step_progresses {s : State} (hh : s.host = []) (hs : s.Inv) : Progresses (step s) := by
  rw [step_eq_fetch_answer, fetch_of_host_nil hh]
  exact fetchEngine_progresses hs

theorem Progresses.ne_fault {a : Answer} (h : Progresses a) (r : Fault) : a ≠ .fault r := by
  obtain ⟨t, rfl⟩ | rfl := h <;> nofun

/-- No guard of a command answers a fault. -/
theorem whenNotBusy_ne_fault {s : State} {a : Answer} {r : Fault} (ha : a ≠ .fault r) : whenNotBusy s a ≠ .fault r := by
  unfold whenNotBusy
  split
  · nofun
  · exact ha

theorem whenCommandMayStart_ne_fault {s : State} {a : Answer} {r : Fault} (ha : a ≠ .fault r) :
    whenCommandMayStart s a ≠ .fault r := by
  refine whenNotBusy_ne_fault ?_
  unfold whenBuffersApart
  split
  · nofun
  unfold whenInputLoaded
  split
  · exact ha
  · nofun

theorem exec_decodeCmd_ne_fault (w : Word) (s : State) (r : Fault) : exec (decodeCmd w) s ≠ .fault r := by
  rcases op_cases w with hop | hop | hop | hop
  · rw [decodeCmd_of_op_zero hop]
    exact whenNotBusy_ne_fault nofun
  · rw [decodeCmd_of_op_one hop]
    exact whenCommandMayStart_ne_fault nofun
  · rw [decodeCmd_of_op_two hop]
    exact whenCommandMayStart_ne_fault nofun
  · rw [decodeCmd_of_op_three hop]
    exact whenNotBusy_ne_fault nofun

theorem writeRegister_ne_fault (n : Nat) (v : Word) (s : State) (r : Fault) : writeRegister n v s ≠ .fault r := by
  unfold writeRegister
  split
  · exact whenNotBusy_ne_fault nofun
  · refine whenNotBusy_ne_fault ?_
    split <;> nofun
  · nofun

theorem loadInput_fault {a : Word} {b : Byte} {s : State} {r : Fault} (h : loadInput a b s = .fault r) :
    r = .noSuchAddress := by
  unfold loadInput at h
  split at h
  · cases h
    rfl
  · exact absurd h (whenNotBusy_ne_fault nofun)

theorem readInput_fault {a : Word} {s : State} {r : Fault} (h : readInput a s = .fault r) : r = .noSuchAddress := by
  unfold readInput at h
  split at h
  · cases h
    rfl
  split at h <;> cases h

theorem readOutput_fault {a : Word} {s : State} {r : Fault} (h : readOutput a s = .fault r) : r = .noSuchAddress := by
  unfold readOutput at h
  split at h
  · cases h
    rfl
  split at h
  · split at h <;> cases h
  · cases h

/-- Settles O48: the engine goes on or is refused for OUT_CAP, and of the host's accesses those to a buffer test the
address. -/
theorem engineNeverFaults : Obligations.EngineNeverFaults := by
  unfold Obligations.EngineNeverFaults
  intro s r hs hstep
  rw [step_eq_fetch_answer] at hstep
  unfold fetch at hstep
  split at hstep
  case h_1 => exact absurd hstep ((fetchEngine_progresses hs).ne_fault r)
  case h_2 act q _ =>
    unfold fetchHost at hstep
    split at hstep
    case h_1 => exact absurd hstep ((fetchEngine_progresses (s := { s with host := q }) hs).ne_fault r)
    case h_2 => exact absurd hstep (exec_decodeCmd_ne_fault _ _ r)
    case h_3 => exact absurd hstep (writeRegister_ne_fault _ _ _ r)
    case h_4 | h_8 => cases hstep
    case h_5 => exact loadInput_fault hstep
    case h_6 => exact readInput_fault hstep
    case h_7 => exact readOutput_fault hstep

end Sys2Proof.Machine

/-! ## Refusals for room and for the host's duties (R76, R78, R275, R280) -/

namespace Sys2Proof.Machine

theorem append_of_full {s : State} (h : s.outCap.toNat ≤ s.olen.toNat) (b : Byte) :
    append b s = .refused .outputFull :=
  if_pos h

theorem whenCommandMayStart_of_share {s : State} (hidle : s.engine ≠ .busy) (hshare : s.buffersShare = true)
    (a : Answer) : whenCommandMayStart s a = .refused .buffersShareStorage := by
  rw [whenCommandMayStart, whenNotBusy_of_not_busy hidle, whenBuffersApart, if_pos hshare]

theorem whenCommandMayStart_of_unloaded {s : State} (hidle : s.engine ≠ .busy) (hapart : s.buffersShare = false)
    (hload : s.inputLoaded = false) (a : Answer) : whenCommandMayStart s a = .refused .inputNotLoaded := by
  simp [whenCommandMayStart, whenNotBusy_of_not_busy hidle, whenBuffersApart, hapart, whenInputLoaded, hload]

theorem buffersShare_iff {s : State} :
    s.buffersShare = true ↔ 0 < s.inLen.toNat ∧ 0 < s.outCap.toNat ∧
      s.inHostBase < s.outHostBase + s.outCap.toNat ∧ s.outHostBase < s.inHostBase + s.inLen.toNat := by
  simp only [State.buffersShare, Bool.and_eq_true, decide_eq_true_eq]

/-- An input with a byte that nothing has written is not loaded (R275). -/
theorem inputLoaded_eq_false {s : State} {a : Nat} (hwf : s.inBuf.wf = true) (ha : a < s.inLen.toNat)
    (hnone : s.inBuf.read a = none) : s.inputLoaded = false := by
  by_contra hload
  obtain ⟨bs, hbs⟩ := Option.isSome_iff_exists.mp (Bool.not_eq_false _ ▸ hload)
  have hlen := Memory.readRun_length hbs
  rw [Memory.readRun_eq_readEach _ _ _ hwf] at hbs
  have hget := Memory.readEach_get hbs a ha
  rw [Nat.zero_add, hnone, List.getElem?_eq_getElem (by omega)] at hget
  cases hget

theorem exec_ref_refused {s : State} {i : Instr} {ob d l : Nat} (hi : refOperands i = some (ob, d, l))
    (hat : s.atRef ob = true) (hinv : s.decoderInv) (hce : s.ip.toNat + 2 ≤ s.chunkEnd.toNat)
    (hin : s.ip.toNat + 2 ≤ s.inLen.toNat) (hd : d ≤ s.pos.toNat) (hfits : s.pos.toNat + l ≤ 4096)
    (hfull : s.outCap.toNat < s.olen.toNat + l) : exec i s = .refused .outputFull := by
  have hd0 := ne_zero_of_refOperands hi
  have hcopy := copyBytes_progresses_of_item (l := l) hinv (dstate_of_atItem (atItem_of_atRef hat)) hd0 hd
  obtain ⟨-, -, holen, -, -⟩ := hinv
  rw [exec_of_atRef hi hat, refTruncated_eq_none_iff.mpr ⟨hce, hin⟩, refMalformed_eq_none hd0 hd hfits, checkedBy_none,
    checkedBy_none, refused_of_appends hcopy (fun _ => copyBytes_appends) holen hfull, andThen_refused]

theorem exec_raw_refused {s : State} {payload : List Byte} (hat : s.atRaw payload.length = true)
    (hin : s.chunkEnd.toNat ≤ s.inLen.toNat) (holen : s.olen.toNat ≤ s.outCap.toNat)
    (hfull : s.outCap.toNat < s.olen.toNat + payload.length) : exec (.raw payload) s = .refused .outputFull := by
  rw [exec_raw_of_atRaw hat, rawTruncated_eq_none hin, checkedBy_none,
    refused_of_appends (appendAll_progresses payload s) (fun _ => appendAll_appends) holen hfull, andThen_refused]

theorem step_emit_refused {s : State} (hh : s.host = []) (he : s.encoding = true) (hs : s.estate = .emit)
    (hinv : s.Inv) (hfull : s.outCap.toNat < s.olen.toNat + 2 + min s.sliceLen.toNat s.candLen.toNat) :
    step s = .refused .outputFull := by
  obtain ⟨c, payload, hemit, hlen⟩ := emitStep_eq_chunk hinv he hs
  obtain ⟨-, -, -, henc, -⟩ := hinv
  obtain ⟨-, holen, -⟩ := henc he
  have hrefused : emitChunk c payload s = .refused .outputFull :=
    refused_of_appends (appendAll_progresses _ s) (fun _ => emitChunk_appends) holen (by omega)
  rw [step_of_emit hh he hs, hemit, hrefused, andThen_refused]

/-- Settles O58: an append that does not fit stops the step, and a command's guards come in their order. -/
theorem capacityRefused : Obligations.CapacityRefused := by
  unfold Obligations.CapacityRefused
  refine ⟨fun s b hat hin hpos hfull => ?literal, fun s payload hat hin => exec_raw_refused hat hin,
    fun s i ob d l hi hat hinv hce hin hd hfits hfull => ?reference,
    fun s hh he hs hinv hfull => step_emit_refused hh he hs hinv hfull,
    fun s r hidle hin hout hbelow habove => ?share, fun s r a hwf hidle hapart ha hnone => ?unloaded⟩
  case literal =>
    rw [exec_lit_of_atLiteral hat, byteTruncated_eq_none_iff.mpr hin, litMalformed_eq_none_iff.mpr hpos, checkedBy_none,
      checkedBy_none, append_of_full hfull, andThen_refused]
  case reference =>
    obtain ⟨-, -, hdec, -⟩ := hinv
    exact exec_ref_refused hi hat (hdec (decoding_of_atItem (atItem_of_atRef hat))) hce hin hd hfits hfull
  case share =>
    have hshare := buffersShare_iff.mpr ⟨hin, hout, hbelow, habove⟩
    exact ⟨whenCommandMayStart_of_share hidle hshare _, whenCommandMayStart_of_share hidle hshare _⟩
  case unloaded =>
    have hload := inputLoaded_eq_false hwf ha hnone
    exact ⟨whenCommandMayStart_of_unloaded hidle hapart hload _, whenCommandMayStart_of_unloaded hidle hapart hload _⟩

end Sys2Proof.Machine

/-! ## Independence of the bytes before the chunk (R63, R179) -/

namespace Sys2Proof.Machine

/-- `v` is `s` but for bytes of OUT below `base`. -/
structure AgreesFrom (base : Nat) (s v : State) : Prop where
  frame : v = { s with outBuf := v.outBuf }
  read : ∀ a, base ≤ a → v.outBuf.read a = s.outBuf.read a

/-- Whatever `s` answers, `v` answers, and the next states agree from `base` on. -/
def AnswersAlike (base : Nat) (a b : Answer) : Prop :=
  ∀ t, a = .next t → ∃ w, b = .next w ∧ AgreesFrom base t w

theorem AgreesFrom.olen {base : Nat} {s v : State} (h : AgreesFrom base s v) : v.olen = s.olen :=
  (congrArg State.olen h.frame :)

theorem AgreesFrom.outCap {base : Nat} {s v : State} (h : AgreesFrom base s v) : v.outCap = s.outCap :=
  (congrArg State.outCap h.frame :)

theorem AgreesFrom.putOut {base : Nat} {s v : State} (h : AgreesFrom base s v) (b : Byte) :
    AgreesFrom base (putOut b s) (putOut b v) where
  frame := by
    have hframe := h.frame
    unfold Machine.putOut
    rw [hframe]
  read a ha := by
    rw [putOut_outBuf, putOut_outBuf, Memory.read_write, Memory.read_write, h.olen, h.read a ha]

theorem AgreesFrom.append {base : Nat} {s v : State} (h : AgreesFrom base s v) (b : Byte) :
    AnswersAlike base (append b s) (append b v) := by
  intro t ht
  obtain ⟨hroom, rfl⟩ := append_eq_next ht
  exact ⟨_, append_of_lt (by rwa [h.olen, h.outCap]) b, h.putOut b⟩

/-- The copy reads at most `d` bytes back, which lie in the chunk. -/
theorem AgreesFrom.copyBytes {base d l : Nat} {s v : State} (h : AgreesFrom base s v)
    (hwin : base + d ≤ s.olen.toNat) : AnswersAlike base (copyBytes d l s) (copyBytes d l v) := by
  intro t ht
  induction l generalizing s v with
  | zero =>
    cases ht
    exact ⟨v, rfl, h⟩
  | succ l ih =>
    obtain ⟨hd, b, hb, hroom, hrest⟩ := copyBytes_succ_eq_next ht
    have hlen := putOut_olen_toNat b s hroom
    have hread : v.outBuf.read (v.olen.toNat - d) = some b := by
      rw [h.olen, h.read _ (by omega), hb]
    rw [copyBytes_succ_of_read (by rwa [h.olen]) hread (by rwa [h.olen, h.outCap])]
    exact ih (h.putOut b) (by omega) hrest

theorem AgreesFrom.inPlace {base : Nat} {a b : Answer} (h : AnswersAlike base a b) (here : Bool) :
    AnswersAlike base (inPlace here a) (inPlace here b) := fun t ht => by
  obtain ⟨rfl, ha⟩ := inPlace_eq_next ht
  exact h t ha

theorem AgreesFrom.checkedBy {base : Nat} {s v : State} {a b : Answer} (h : AgreesFrom base s v) (c : Option Cause)
    (hab : c = none → AnswersAlike base a b) : AnswersAlike base (checkedBy c s a) (checkedBy c v b) := by
  intro t ht
  cases c with
  | none => exact hab rfl t ht
  | some e =>
    cases ht
    refine ⟨_, rfl, ?_, h.read⟩
    have hframe := h.frame
    unfold takeError
    rw [hframe]

/-- Settles O23: past the checks, which read no byte of OUT, LIT appends and a back-reference copies. -/
theorem chunkIndependence : Obligations.ChunkIndependence := by
  unfold Obligations.ChunkIndependence
  intro s u m i hi hwin _ hm hexec
  have hagree : AgreesFrom s.outBase.toNat s { s with outBuf := m } := ⟨rfl, hm⟩
  suffices halike : AnswersAlike s.outBase.toNat (exec i s) (exec i { s with outBuf := m }) by
    obtain ⟨v, hv, hframe, hread⟩ := halike u hexec
    exact ⟨v, hv, hframe, hread⟩
  rcases hi with ⟨b, rfl⟩ | hops
  · refine AgreesFrom.inPlace (hagree.checkedBy _ fun _ => hagree.checkedBy _ fun _ t ht => ?_) _
    obtain ⟨w, hw, ⟨⟩⟩ := andThen_eq_next ht
    obtain ⟨x, hx, hwx⟩ := hagree.append b w hw
    have hframe := hwx.frame
    refine ⟨{ x with pos := x.pos + 1, ip := x.ip + 1, idx := x.idx + 1 }, by rw [hx, andThen_next], ?_, hwx.read⟩
    rw [hframe]
  · obtain ⟨⟨ob, d, l⟩, hops⟩ := Option.isSome_iff_exists.mp hops
    have hd0 := ne_zero_of_refOperands hops
    rw [exec_of_refOperands hops, exec_of_refOperands hops]
    refine AgreesFrom.inPlace (hagree.checkedBy _ fun _ => hagree.checkedBy _ fun hmal t ht => ?_) _
    obtain ⟨hd, -⟩ := (refMalformed_eq_none_iff hd0).mp hmal
    obtain ⟨w, hw, ⟨⟩⟩ := andThen_eq_next ht
    obtain ⟨x, hx, hwx⟩ := hagree.copyBytes (by omega) w hw
    have hframe := hwx.frame
    refine ⟨{ x with pos := x.pos + BitVec.ofNat 13 l, ip := x.ip + 2, idx := x.idx + 1 }, by rw [hx, andThen_next], ?_,
      hwx.read⟩
    rw [hframe]

end Sys2Proof.Machine

/-! ## The tag bits of absent items (R145) -/

namespace Sys2Proof.Machine

/-- The state with another TAG, as a step's answer. -/
def retag (t : Byte) (s : State) : Answer := .next { s with tag := t }

/-- The answer of a state with another TAG is the answer of the state itself, but for TAG. -/
def Retags (t : Byte) (a b : Answer) : Prop := b = andThen a (retag t)

theorem Retags.next (t : Byte) (s : State) : Retags t (.next s) (.next { s with tag := t }) := rfl

theorem Retags.andThen {t : Byte} {a b : Answer} {f : State → Answer} (h : Retags t a b)
    (hf : ∀ u, a = .next u → Retags t (f u) (f { u with tag := t })) : Retags t (andThen a f) (andThen b f) := by
  unfold Retags at h
  subst h
  cases a with
  | next u => exact hf u rfl
  | fault r => rfl
  | refused r => rfl

theorem Retags.inPlace {t : Byte} {a b : Answer} (h : Retags t a b) (here : Bool) :
    Retags t (inPlace here a) (inPlace here b) := by
  cases here with
  | true => exact h
  | false => rfl

theorem Retags.checkedBy {t : Byte} {s : State} {a b : Answer} (h : Retags t a b) (c : Option Cause) :
    Retags t (checkedBy c s a) (checkedBy c { s with tag := t } b) := by
  cases c with
  | none => exact h
  | some e => rfl

theorem append_retags (t b : Byte) (s : State) : Retags t (append b s) (append b { s with tag := t }) := by
  obtain ⟨hroom, h⟩ | ⟨hfull, h⟩ := append_cases b s
  · rw [h]
    exact append_of_lt (s := { s with tag := t }) hroom b
  · rw [h]
    exact if_pos hfull

theorem appendAll_retags (t : Byte) (bs : List Byte) (s : State) :
    Retags t (appendAll bs s) (appendAll bs { s with tag := t }) := by
  induction bs generalizing s with
  | nil => rfl
  | cons b bs ih => exact (append_retags t b s).andThen fun u _ => ih u

/-- No header and no raw payload reads TAG. -/
theorem exec_retags {t : Byte} {s : State} {i : Instr} {p : Place} (hi : i.standsAt p = true)
    (hp : p = .header ∨ ∃ n, p = .raw n) : Retags t (exec i s) (exec i { s with tag := t }) := by
  cases i
  case endMark | hdrR | hdrC =>
    refine Retags.inPlace ?_ s.atHeader
    exact .next t _
  case hdrRNs | hdrCNs =>
    refine Retags.inPlace (.checkedBy ?_ _) s.atHeader
    exact .next t _
  case raw payload =>
    refine Retags.inPlace (.checkedBy ?_ _) (s.atRaw payload.length)
    refine (appendAll_retags t payload s).andThen fun u _ => ?_
    exact .next t _
  all_goals
    obtain rfl | ⟨n, rfl⟩ := hp <;> simp [Instr.standsAt] at hi

theorem fetchToken_retags {t : Byte} {s : State} {p : Place} {n : Nat} (hp : p = .header ∨ ∃ n, p = .raw n) :
    Retags t (fetchToken p n s).answer (fetchToken p n { s with tag := t }).answer := by
  unfold fetchToken
  dsimp only
  split
  · rfl
  split
  · rfl
  split
  case h_1 i rest hdec => exact exec_retags (encodeOfDecode p _ rest i hdec).2.2 hp
  case h_2 => rfl

theorem fetchHeader_retags (t : Byte) (s : State) :
    Retags t (fetchHeader s).answer (fetchHeader { s with tag := t }).answer := by
  unfold fetchHeader
  dsimp only
  split
  · rfl
  split
  · rfl
  · exact fetchToken_retags (.inl rfl)

theorem fetchRaw_retags (t : Byte) (s : State) :
    Retags t (fetchRaw s).answer (fetchRaw { s with tag := t }).answer := by
  have htoken : Retags t (fetchToken (.raw s.size.toNat) s.size.toNat s).answer
    (fetchToken (.raw s.size.toNat) s.size.toNat { s with tag := t }).answer := fetchToken_retags (.inr ⟨_, rfl⟩)
  unfold fetchRaw
  change Retags t _ (fetchUnless (rawTruncated s) _ _).answer
  cases rawTruncated s with
  | some c => rfl
  | none => exact htoken

/-- No item of a group will read TAG before the next tag byte: no command runs, or DECOMPRESS stands outside a group or
where the budget is spent. -/
def State.groupSpent (s : State) : Prop :=
  s.engine ≠ .busy ∨ s.decoding = true ∧ (s.dstate = .item → s.ip = s.chunkEnd ∧ s.idx.toNat ≤ 8)

theorem fetchDecoder_of_hdr {s : State} (hds : s.dstate = .hdr) : fetchDecoder s = fetchHeader s := by
  rw [fetchDecoder, hds]

theorem fetchDecoder_of_raw {s : State} (hds : s.dstate = .raw) : fetchDecoder s = fetchRaw s := by
  rw [fetchDecoder, hds]

theorem fetchDecoder_of_tag {s : State} (hds : s.dstate = .tag) : fetchDecoder s = fetchTag s := by
  rw [fetchDecoder, hds]

theorem fetchDecoder_of_item {s : State} (hds : s.dstate = .item) : fetchDecoder s = fetchItem s := by
  rw [fetchDecoder, hds]

/-- Without a tag byte due, no step of a spent group reads TAG. -/
theorem fetchDecoder_retags (t : Byte) {s : State} (hitem : s.dstate = .item → s.ip = s.chunkEnd ∧ s.idx.toNat ≤ 8)
    (htag : s.dstate = .tag → s.ip = s.chunkEnd ∨ s.inLen.toNat ≤ s.ip.toNat) :
    Retags t (fetchDecoder s).answer (fetchDecoder { s with tag := t }).answer := by
  obtain ⟨d, hds⟩ : ∃ d, s.dstate = d := ⟨_, rfl⟩
  cases d with
  | hdr =>
    rw [fetchDecoder_of_hdr hds, fetchDecoder_of_hdr (s := { s with tag := t }) hds]
    exact fetchHeader_retags t s
  | raw =>
    rw [fetchDecoder_of_raw hds, fetchDecoder_of_raw (s := { s with tag := t }) hds]
    exact fetchRaw_retags t s
  | tag =>
    rw [fetchDecoder_of_tag hds, fetchDecoder_of_tag (s := { s with tag := t }) hds]
    unfold fetchTag
    dsimp only
    split
    case isTrue => rfl
    case isFalse hne =>
      have hend := (htag hds).resolve_left hne
      rw [byteTruncated_eq_some hend, byteTruncated_eq_some (s := { s with tag := t }) hend]
      rfl
  | item =>
    rw [fetchDecoder_of_item hds, fetchDecoder_of_item (s := { s with tag := t }) hds]
    unfold fetchItem
    dsimp only
    split
    · rfl
    · rw [if_pos (hitem hds).1, if_pos (hitem hds).1]
      rfl
  | idle | done =>
    unfold fetchDecoder
    dsimp only
    rw [hds]
    rfl

/-- The tag byte due overwrites TAG, whatever it was (R140). -/
theorem fetchDecoder_of_tagByte (t : Byte) {s : State} (hat : s.atTag = true) (hin : s.ip.toNat < s.inLen.toNat) :
    (fetchDecoder { s with tag := t }).answer = (fetchDecoder s).answer := by
  obtain ⟨-, hds, hne⟩ := atTag_iff.mp hat
  have hnone := byteTruncated_eq_none_iff.mpr hin
  rw [fetchDecoder_of_tag hds, fetchDecoder_of_tag (s := { s with tag := t }) hds]
  unfold fetchTag
  rw [if_neg hne, if_neg (by exact hne), hnone, show byteTruncated { s with tag := t } = none from hnone]
  unfold fetchUnless fetchToken
  dsimp only
  split
  · rfl
  split
  · rfl
  split
  case h_1 i rest hdec =>
    obtain ⟨-, -, hi⟩ := encodeOfDecode .tag _ rest i hdec
    cases i
    case tag b =>
      change exec (.tag b) { s with tag := t } = exec (.tag b) s
      rw [exec_tag_of_atTag hat, exec_tag_of_atTag (s := { s with tag := t }) hat, hnone,
        show byteTruncated { s with tag := t } = none from hnone]
      rfl
    all_goals simp [Instr.standsAt] at hi
  case h_2 => rfl

/-- A spent group stays spent until a tag byte opens the next one. -/
theorem EngineStep.groupSpent {s u : State} (h : EngineStep s u) (hs : s.groupSpent) :
    u.groupSpent ∨ s.atTag = true ∧ s.ip.toNat < s.inLen.toNat := by
  rcases hs with hidle | ⟨hd, hitem⟩
  · rw [h.of_not_busy hidle]
    exact .inl (.inl hidle)
  obtain ⟨hbusy, hop⟩ := decoding_iff.mp hd
  have hnot : ¬ s.atItem = true := fun hat => by
    obtain ⟨-, hds, -, hne⟩ := atItem_iff.mp hat
    exact hne (hitem hds).1
  cases h with
  | stopped hidle => exact absurd hbusy hidle
  | failed => exact .inl (.inl (by simp))
  | inputEnd => exact .inl (.inl (by simp))
  | chunkDone | groupDone => exact .inl (.inr ⟨hd, nofun⟩)
  | encoder he =>
    rw [(encoding_iff.mp he).2] at hop
    cases hop
  | token h =>
    cases h with
    | failed => exact .inl (.inl (by simp))
    | endMark => exact .inl (.inl (by simp))
    | @header _ c => exact .inl (.inr ⟨hd, by cases c <;> nofun⟩)
    | raw _ _ happ =>
      refine .inl (.inr ⟨?_, nofun⟩)
      rw [(appendAll_appends happ).frame]
      exact hd
    | tag hat hin => exact .inr ⟨hat, hin⟩
    | lit hat => exact absurd (atItem_of_atLiteral hat) hnot
    | ref _ hat => exact absurd (atItem_of_atRef hat) hnot

/-- One step of a spent group with another TAG: the same answer but for TAG, the group still spent, or the tag byte of
the next group, after which nothing differs. -/
theorem fetchEngine_retags (t : Byte) {s : State} (hs : s.groupSpent) :
    (Retags t (fetchEngine s).answer (fetchEngine { s with tag := t }).answer ∧
        ∀ u, (fetchEngine s).answer = .next u → u.groupSpent) ∨
      (fetchEngine { s with tag := t }).answer = (fetchEngine s).answer := by
  by_cases hdue : s.atTag = true ∧ s.ip.toNat < s.inLen.toNat
  case pos =>
    obtain ⟨hat, hin⟩ := hdue
    have hd := decoding_of_atTag hat
    rw [fetchEngine_of_decoding hd, fetchEngine_of_decoding (s := { s with tag := t }) hd]
    exact .inr (fetchDecoder_of_tagByte t hat hin)
  case neg =>
    refine .inl ⟨?_, fun u hu => ((EngineStep.of_fetchEngine hu).groupSpent hs).resolve_right hdue⟩
    rcases hs with hidle | ⟨hd, hitem⟩
    · rw [fetchEngine, if_neg hidle, fetchEngine, if_neg (by exact hidle)]
      rfl
    · rw [fetchEngine_of_decoding hd, fetchEngine_of_decoding (s := { s with tag := t }) hd]
      refine fetchDecoder_retags t hitem fun hds => ?_
      by_contra hnot
      obtain ⟨hne, hin⟩ := not_or.mp hnot
      exact hdue ⟨atTag_iff.mpr ⟨hd, hds, hne⟩, not_le.mp hin⟩

/-! ### Runs -/

theorem run_of_step_next {s t : State} (h : step s = .next t) (k : Nat) : core.run (k + 1) s = core.run k t := by
  have hstep : core.step s = .next t := h
  simp only [Host.Core.run, hstep]

theorem run_of_step_fault {s : State} {r : Fault} (h : step s = .fault r) (k : Nat) :
    core.run (k + 1) s = .fault r := by
  have hstep : core.step s = .fault r := h
  simp only [Host.Core.run, hstep]

theorem run_of_step_refused {s : State} {r : Refusal} (h : step s = .refused r) (k : Nat) :
    core.run (k + 1) s = .refused r := by
  have hstep : core.step s = .refused r := h
  simp only [Host.Core.run, hstep]

theorem run_succ (k : Nat) (s : State) : core.run (k + 1) s = andThen (step s) (core.run k) := by
  cases h : step s with
  | next t => exact run_of_step_next h k
  | fault r => exact run_of_step_fault h k
  | refused r => exact run_of_step_refused h k

theorem step_of_host_nil {s : State} (hh : s.host = []) : step s = (fetchEngine s).answer := by
  rw [step_eq_fetch_answer, fetch_of_host_nil hh]

/-- The engine leaves the host's queue as it is. -/
theorem host_nil_of_step {s t : State} (hh : s.host = []) (h : step s = .next t) : t.host = [] :=
  (engineStep_of_step hh h).sameInput.host.trans hh

/-- For any number of steps the two runs answer alike: but for TAG, or exactly. -/
theorem run_retags (t : Byte) (k : Nat) {s : State} (hh : s.host = []) (hs : s.groupSpent) :
    Retags t (core.run k s) (core.run k { s with tag := t }) ∨ core.run k { s with tag := t } = core.run k s := by
  induction k generalizing s with
  | zero => exact .inl rfl
  | succ k ih =>
    rw [run_succ, run_succ, step_of_host_nil hh, step_of_host_nil (s := { s with tag := t }) hh]
    rcases fetchEngine_retags t hs with ⟨hretag, hspent⟩ | hsame
    · cases hanswer : (fetchEngine s).answer with
      | next u =>
        have hu : u.host = [] := host_nil_of_step hh ((step_of_host_nil hh).trans hanswer)
        rw [show (fetchEngine { s with tag := t }).answer = .next { u with tag := t } by rw [hretag, hanswer]; rfl]
        exact ih hu (hspent u hanswer)
      | fault r =>
        rw [show (fetchEngine { s with tag := t }).answer = .fault r by rw [hretag, hanswer]; rfl]
        exact .inl rfl
      | refused r =>
        rw [show (fetchEngine { s with tag := t }).answer = .refused r by rw [hretag, hanswer]; rfl]
        exact .inl rfl
    · rw [hsame]
      exact .inr rfl

/-- Settles O22: with the budget spent the group is spent, so that TAG is not read before it is overwritten. -/
theorem absentTagBitsIgnored : Obligations.AbsentTagBitsIgnored := by
  unfold Obligations.AbsentTagBitsIgnored
  intro s t k hh hd hds hend hidx
  have hspent : s.groupSpent := .inr ⟨hd, fun _ => ⟨hend, hidx⟩⟩
  rcases run_retags t k hh hspent with hretag | hsame
  · rw [hretag]
    cases core.run k s <;> rfl
  · rw [hsame]
    cases core.run k s <;> rfl

end Sys2Proof.Machine

/-! ## The chosen back-references (R99, R144, R149, R223, R228) -/

namespace Sys2Proof.Machine

/-- A position within a chunk is no greater than the displacements its form can state. -/
theorem le_two_pow_bfc {p : Nat} (hp : p ≤ 4096) : p ≤ 2 ^ bfc p := by
  rcases Nat.lt_or_ge (bfc p) 12 with hlt | hge
  · exact (bfc_le_iff (four_le_bfc p) hlt).mp le_rfl
  · exact hp.trans (Nat.pow_le_pow_right (n := 2) (by decide) hge)

/-- The two fields of a word whose displacement and length fit them. -/
theorem refWord_toNat {p d l : Nat} (hd0 : 1 ≤ d) (hd : d ≤ 2 ^ bfc p) (hl : l < 2 ^ lengthBits p + 3) (hl3 : 3 ≤ l) :
    (refWord p d l).toNat = (d - 1) * 2 ^ lengthBits p + (l - 3) := by
  have hlow : l - 3 < 2 ^ lengthBits p := by omega
  have hfit : (d - 1) * 2 ^ lengthBits p + (l - 3) < 2 ^ 16 := calc
    _ < (d - 1) * 2 ^ lengthBits p + 2 ^ lengthBits p := by omega
    _ = d * 2 ^ lengthBits p := by rw [← Nat.succ_mul, Nat.succ_eq_add_one, Nat.sub_add_cancel hd0]
    _ ≤ 2 ^ bfc p * 2 ^ lengthBits p := Nat.mul_le_mul_right _ hd
    _ = 2 ^ 16 := by rw [← Nat.pow_add, Nat.add_comm, lengthBits_add_bfc]
  rw [refWord, BitVec.toNat_ofNat, ← Nat.shiftLeft_add_eq_or_of_lt hlow, Nat.shiftLeft_eq, Nat.mod_eq_of_lt hfit]

/-- The word of a back-reference unpacks to its displacement and length (R98, R99). -/
theorem refOperands_decodeRef_refWord {p d l : Nat} (hd0 : 1 ≤ d) (hd : d ≤ 2 ^ bfc p) (hl3 : 3 ≤ l)
    (hl : l < 2 ^ lengthBits p + 3) : refOperands (decodeRef p (refWord p d l)) = some (bfc p, d, l) := by
  have hlow : l - 3 < 2 ^ lengthBits p := by omega
  have hdiv : ((d - 1) * 2 ^ lengthBits p + (l - 3)) >>> lengthBits p = d - 1 := by
    rw [Nat.shiftRight_eq_div_pow, Nat.mul_comm, Nat.mul_add_div (Nat.two_pow_pos _), Nat.div_eq_of_lt hlow,
      Nat.add_zero]
  have hmod : ((d - 1) * 2 ^ lengthBits p + (l - 3)) &&& ((1 <<< lengthBits p) - 1) = l - 3 := by
    rw [Nat.one_shiftLeft, Nat.and_two_pow_sub_one_eq_mod, Nat.mul_add_mod_of_lt hlow]
  rw [refOperands_decodeRef, displacementOf_extractLsb' (lengthBits_add_bfc p), lengthOf_extractLsb',
    refWord_toNat hd0 hd hl hl3, hdiv, hmod, Nat.sub_add_cancel hd0, Nat.sub_add_cancel hl3]

/-- A back-reference the match finder chose at `p`: its bounds, and the agreement of the slice with itself `d` bytes
before. -/
structure ChosenRef (bytes : List Byte) (p d l : Nat) : Prop where
  pos : 1 ≤ d
  le : d ≤ p
  three_le : 3 ≤ l
  fits : l ≤ 2 ^ (16 - bfc p) + 2
  inside : p + l ≤ bytes.length
  agrees : ∀ k, k < l → bytes[p - d + k]? = bytes[p + k]?

theorem chosenRef_of_chooseItem {bytes : List Byte} {p q d l : Nat} (h : chooseItem bytes p = some (.ref q d l)) :
    q = p ∧ ChosenRef bytes p d l := by
  have hinside : p + l ≤ bytes.length := (chooseItem_bounds h).1
  have hlen := (chooseItem_bounds h).2.2.1
  rw [Item.bytes_ref, Item.length] at hlen
  have hp : p < bytes.length := by
    simp only [List.length_cons, List.length_nil] at hlen
    omega
  obtain ⟨-, href, -⟩ := choiceIsNearestLongest bytes p hp
  obtain ⟨hq, hpos, hle, hl, hmatch, -⟩ := href q d l h
  obtain ⟨hmax, hagree⟩ := le_matchAt_iff.mp hmatch.ge
  exact ⟨hq, hpos, hle, hl, hmax.trans (min_le_right _ _), hinside, hagree⟩

theorem ChosenRef.operands {bytes : List Byte} {p d l : Nat} (h : ChosenRef bytes p d l)
    (hlen : bytes.length ≤ 4096) : refOperands (decodeRef p (refWord p d l)) = some (bfc p, d, l) := by
  have hp : p ≤ 4096 := (Nat.le_add_right p l).trans (h.inside.trans hlen)
  refine refOperands_decodeRef_refWord h.pos (h.le.trans (le_two_pow_bfc hp)) h.three_le ?_
  exact Nat.lt_succ_of_le h.fits

theorem ChosenRef.wellFormed {bytes : List Byte} {p d l : Nat} (h : ChosenRef bytes p d l)
    (hlen : bytes.length ≤ 4096) {s : State} (hp : s.pos.toNat = p) : refMalformed d l s = none :=
  (refMalformed_eq_none_iff (Nat.ne_of_gt h.pos)).mpr (hp ▸ ⟨h.le, h.inside.trans hlen⟩)

/-- The copy extends a window of the slice's first bytes: each byte copied is the slice's `d` before it, which agrees
with the slice's own. -/
theorem ChosenRef.copy {bytes : List Byte} {p d l : Nat} (h : ChosenRef bytes p d l) {s t : State}
    (holen : s.olen.toNat = s.outBase.toNat + p) (hwin : ∀ k, k < p → s.outBuf.read (s.outBase.toNat + k) = bytes[k]?)
    (hcopy : copyBytes d l s = .next t) : ∀ k, k < p + l → t.outBuf.read (s.outBase.toNat + k) = bytes[k]? := by
  intro k
  induction k using Nat.strong_induction_on with
  | h k ih =>
    intro hk
    rcases Nat.lt_or_ge k p with hold | hnew
    · rw [(copyBytes_appends hcopy).out.other _ (.inl (by omega)), hwin k hold]
    · obtain ⟨j, rfl⟩ := Nat.exists_eq_add_of_le hnew
      have hback := copyBytes_read_eq_back hcopy h.pos (show j < l by omega)
      have hdp := h.le
      have hd0 := h.pos
      have hsource := ih (p - d + j) (by omega) (by omega)
      rw [h.agrees j (by omega)] at hsource
      rwa [show s.outBase.toNat + (p + j) = s.olen.toNat + j by omega, hback,
        show s.olen.toNat + j - d = s.outBase.toNat + (p - d + j) by omega]

/-- Settles O36: what the search keeps bounds the choice, its word's fields hold both values, and the copy repeats bytes
that agree. -/
theorem chosenMatchesDecode : Obligations.ChosenMatchesDecode := by
  unfold Obligations.ChosenMatchesDecode
  intro bytes p d l hlen hchosen
  obtain ⟨-, h⟩ := chosenRef_of_chooseItem hchosen
  exact ⟨h.pos, h.le, h.three_le, h.fits, h.inside, h.operands hlen, fun s hp => h.wellFormed hlen hp,
    fun s t holen hwin hcopy => h.copy holen hwin hcopy⟩

end Sys2Proof.Machine

/-! ## Every command ends (R177, R208) -/

namespace Sys2Proof.Machine

/-! ### Bounded runs -/

/-- The answer is a state that meets `goal`, or the refusal of an append past OUT_CAP (R78). -/
def EndsIn (goal : State → Prop) (a : Answer) : Prop :=
  (∃ u, a = .next u ∧ goal u) ∨ a = .refused .outputFull

/-- A state that the engine does not leave is where every longer run ends. -/
theorem run_of_step_self {s : State} (h : step s = .next s) (k : Nat) : core.run k s = .next s := by
  induction k with
  | zero => rfl
  | succ k ih => rw [run_of_step_next h, ih]

/-- A run whose steps progress and lessen a fuel reaches its goal before the fuel is spent, and stays there. -/
theorem run_endsIn {running goal : State → Prop} {fuel : State → Nat}
    (hprogress : ∀ s, running s → Progresses (step s))
    (hstep : ∀ s t, running s → step s = .next t → goal t ∨ running t ∧ fuel t < fuel s)
    (hstays : ∀ s, goal s → step s = .next s) {s : State} {k : Nat} (hs : running s) (hk : fuel s < k) :
    EndsIn goal (core.run k s) := by
  induction k generalizing s with
  | zero => exact absurd hk (Nat.not_lt_zero _)
  | succ k ih =>
    obtain ⟨t, ht⟩ | hfull := hprogress s hs
    · rw [run_of_step_next ht]
      rcases hstep s t hs ht with hgoal | ⟨hrunning, hless⟩
      · exact .inl ⟨t, run_of_step_self (hstays t hgoal) k, hgoal⟩
      · exact ih hrunning (by omega)
    · exact .inr (run_of_step_refused hfull k)

/-- A run of a command between its steps, no host action pending. -/
structure Running (s : State) : Prop where
  host : s.host = []
  inv : s.Inv

theorem Running.progresses {s : State} (h : Running s) : Progresses (step s) := step_progresses h.host h.inv

theorem Running.engineStep {s t : State} (h : Running s) (hstep : step s = .next t) : EngineStep s t :=
  engineStep_of_step h.host hstep

theorem Running.next {s t : State} (h : Running s) (hstep : step s = .next t) : Running t :=
  ⟨host_nil_of_step h.host hstep, step_inv h.inv hstep⟩

theorem Running.stays {s : State} (h : Running s) (hidle : s.engine ≠ .busy) : step s = .next s :=
  step_of_not_busy h.host hidle

theorem decoding_congr {s t : State} (h : t.status = s.status) : t.decoding = s.decoding := by
  unfold State.decoding State.engine State.lastOp
  rw [h]

theorem encoding_congr {s t : State} (h : t.status = s.status) : t.encoding = s.encoding := by
  unfold State.encoding State.engine State.lastOp
  rw [h]

/-! ### DECOMPRESS (R177) -/

/-- The steps a state of the decoder may still take before the next byte of the input. -/
def DState.rank : DState → Nat
  | .idle => 0
  | .hdr => 1
  | .raw => 0
  | .tag => 2
  | .item => 3
  | .done => 0

/-- At most three steps for each byte of the input left: a tag byte, an item and a group's end. -/
def State.decoderFuel (s : State) : Nat := 3 * (s.inLen.toNat - s.ip.toNat) + s.dstate.rank

theorem State.ended_iff {s : State} : s.ended = true ↔ s.engine = .done ∨ s.engine = .error := by
  simp [State.ended]

/-- Consuming at least one byte of the input pays for any state but the highest. -/
theorem decoderFuel_lt {s t : State} {d e : DState} (hlen : t.inLen = s.inLen) (hip : s.ip.toNat < t.ip.toNat)
    (hin : t.ip.toNat ≤ s.inLen.toNat) (hds : s.dstate = d) (hdt : t.dstate = e) (hrank : e.rank ≤ d.rank + 2) :
    t.decoderFuel < s.decoderFuel := by
  unfold State.decoderFuel
  rw [hlen, hds, hdt]
  omega

/-- A token fails, completes the command, or lessens the fuel. -/
theorem TokenStep.decoderFuel {s t : State} {i : Instr} (h : TokenStep s i t) (hs : s.decoderInv) :
    t.ended = true ∨ t.status = s.status ∧ t.decoderFuel < s.decoderFuel := by
  have hlen := h.frame.sameInput.inLen
  obtain ⟨-, -, -, -, hstate⟩ := hs
  cases h with
  | failed => exact .inl (by simp [State.ended])
  | endMark => exact .inl (by simp [State.ended])
  | @header _ c m _ hat =>
    obtain ⟨-, hds, hin⟩ := atHeader_iff.mp hat
    have hip : (s.ip + 2).toNat = s.ip.toNat + 2 := ip_add_toNat hin
    refine .inr ⟨rfl, decoderFuel_lt hlen (hip ▸ Nat.lt_add_of_pos_right Nat.two_pos) (hip ▸ hin) hds
      (chunkSetup_dstate c m s) ?_⟩
    cases c <;> decide
  | raw hat hin happ =>
    obtain ⟨-, hds, -⟩ := atRaw_iff.mp hat
    rw [hds] at hstate
    obtain ⟨hsize, -, hend⟩ := hstate
    refine .inr ⟨(congrArg State.status (appendAll_appends happ).frame :), ?_⟩
    exact decoderFuel_lt (e := .hdr) hlen (show s.ip.toNat < s.chunkEnd.toNat by omega) hin hds rfl (by decide)
  | tag hat hin =>
    obtain ⟨-, hds, -⟩ := atTag_iff.mp hat
    have hip : (s.ip + 1).toNat = s.ip.toNat + 1 := ip_add_toNat hin
    exact .inr ⟨rfl, decoderFuel_lt (e := .item) hlen (hip ▸ Nat.lt_succ_self _) (hip ▸ hin) hds rfl (by decide)⟩
  | lit hat hin =>
    have hip : (s.ip + 1).toNat = s.ip.toNat + 1 := ip_add_toNat hin
    exact .inr ⟨rfl, decoderFuel_lt hlen (hip ▸ Nat.lt_succ_self _) (hip ▸ hin) rfl rfl
      (Nat.le_add_right _ 2)⟩
  | @ref _ _ d l u _ hat hce hin hd hpos hcopy =>
    have hip : (s.ip + 2).toNat = s.ip.toNat + 2 := ip_add_toNat hin
    have hframe := (copyBytes_appends hcopy).frame
    have hds : u.dstate = s.dstate := (congrArg State.dstate hframe :)
    refine .inr ⟨(congrArg State.status hframe :), decoderFuel_lt hlen (hip ▸ Nat.lt_add_of_pos_right Nat.two_pos)
      (hip ▸ hin) rfl hds (Nat.le_add_right _ 2)⟩

theorem EngineStep.decoderFuel {s t : State} (h : EngineStep s t) (hd : s.decoding = true) (hs : s.decoderInv) :
    t.ended = true ∨ t.decoding = true ∧ t.decoderFuel < s.decoderFuel := by
  cases h with
  | stopped hidle => exact absurd (decoding_iff.mp hd).1 hidle
  | failed => exact .inl (by simp [State.ended])
  | inputEnd => exact .inl (by simp [State.ended])
  | chunkDone _ _ hds =>
    have hrank : DState.hdr.rank < s.dstate.rank := by rcases hds with hds | hds <;> rw [hds] <;> decide
    exact .inr ⟨hd, Nat.add_lt_add_left hrank _⟩
  | groupDone _ hds =>
    have hrank : DState.tag.rank < s.dstate.rank := hds ▸ by decide
    exact .inr ⟨hd, Nat.add_lt_add_left hrank _⟩
  | token h => exact (h.decoderFuel hs).imp_right fun ⟨hstatus, hless⟩ => ⟨(decoding_congr hstatus).trans hd, hless⟩
  | encoder he =>
    have hop := (decoding_iff.mp hd).2
    rw [(encoding_iff.mp he).2] at hop
    cases hop

theorem engine_ne_busy_of_ended {s : State} (h : s.ended = true) : s.engine ≠ .busy := by
  rcases State.ended_iff.mp h with he | he <;> rw [he] <;> nofun

/-- A running DECOMPRESS ends before its fuel is spent. -/
theorem run_ended {s : State} {k : Nat} (hs : Running s) (hd : s.decoding = true) (hk : s.decoderFuel < k) :
    EndsIn (fun u => Running u ∧ u.ended = true) (core.run k s) := by
  refine run_endsIn (running := fun u => Running u ∧ u.decoding = true) (fun u hu => hu.1.progresses)
    (fun u v ⟨hu, hdu⟩ hstep => ?_) (fun u ⟨hu, hend⟩ => hu.stays (engine_ne_busy_of_ended hend)) ⟨hs, hd⟩ hk
  obtain ⟨-, -, hdec, -⟩ := hu.inv
  exact ((hu.engineStep hstep).decoderFuel hdu (hdec hdu)).imp (fun hend => ⟨hu.next hstep, hend⟩)
    fun ⟨hdv, hless⟩ => ⟨⟨hu.next hstep, hdv⟩, hless⟩

/-- The start of DECOMPRESS in a run. -/
theorem running_startDecompress {s t : State} {r : BitVec 30} (hs : s.Inv) (hh : s.host = [])
    (h : exec (.cmdDecompress r) s = .next t) : Running t ∧ t = startDecompress s := by
  obtain ⟨hidle, hloaded, rfl⟩ := exec_cmdDecompress_eq_next h
  exact ⟨⟨hh, (HostStep.decompress (w := 2#32) rfl hidle hloaded).inv hs⟩, rfl⟩

/-- Settles O52: every byte of the input pays for three steps. -/
theorem decompressEnds : Obligations.DecompressEnds := by
  unfold Obligations.DecompressEnds
  intro s t r hs hh hstart
  obtain ⟨hrun, rfl⟩ := running_startDecompress hs hh hstart
  have hfuel : (startDecompress s).decoderFuel = 3 * s.inLen.toNat + 1 := rfl
  obtain ⟨u, hu, -, hend⟩ | hfull := run_ended hrun (startDecompress_decoding s) (hfuel.trans_lt (Nat.lt_succ_self _))
  · rw [hu]
    exact hend
  · rw [hfull]

/-! ### COMPRESS (R208) -/

/-- The steps left: four for each byte of the input after the open slice, one for each byte of the slice still to be
covered, and the open slice's last two. -/
def State.encoderFuel (s : State) : Nat :=
  match s.estate with
  | .slice => 4 * (s.inLen.toNat - s.sliceBase.toNat)
  | .item => 4 * (s.inLen.toNat - s.sliceBase.toNat - s.sliceLen.toNat) + (s.sliceLen.toNat - s.epos.toNat) + 2
  | .emit => 4 * (s.inLen.toNat - s.sliceBase.toNat - s.sliceLen.toNat) + 1
  | .idle => 0
  | .done => 0

theorem encoderFuel_of_slice {s : State} (h : s.estate = .slice) :
    s.encoderFuel = 4 * (s.inLen.toNat - s.sliceBase.toNat) := by
  rw [State.encoderFuel, h]

theorem encoderFuel_of_item {s : State} (h : s.estate = .item) :
    s.encoderFuel =
      4 * (s.inLen.toNat - s.sliceBase.toNat - s.sliceLen.toNat) + (s.sliceLen.toNat - s.epos.toNat) + 2 := by
  rw [State.encoderFuel, h]

theorem encoderFuel_of_emit {s : State} (h : s.estate = .emit) :
    s.encoderFuel = 4 * (s.inLen.toNat - s.sliceBase.toNat - s.sliceLen.toNat) + 1 := by
  rw [State.encoderFuel, h]

/-- A step of the encoder completes the command, or lessens the fuel. -/
theorem EncoderStep.encoderFuel {s t : State} (h : EncoderStep s t) (hs : s.encoderInv) :
    t.engine = .done ∨ t.status = s.status ∧ t.encoderFuel < s.encoderFuel := by
  have hlen := h.frame.sameInput.inLen
  obtain ⟨-, -, hstate⟩ := hs
  cases h with
  | complete => exact .inl (finishCompress_engine s)
  | slice hs hlt =>
    refine .inr ⟨rfl, ?_⟩
    have hmod : (BitVec.ofNat 13 (min 4096 (s.inLen.toNat - s.sliceBase.toNat))).toNat =
        min 4096 (s.inLen.toNat - s.sliceBase.toNat) := Nat.mod_eq_of_lt (by omega)
    rw [encoderFuel_of_slice hs, encoderFuel_of_item rfl]
    simp only [hmod]
    omega
  | itemsEnd hs =>
    refine .inr ⟨rfl, ?_⟩
    rw [encoderFuel_of_item hs, encoderFuel_of_emit rfl]
    simp only
    omega
  | @item bytes it t hs hne hrun hit hadd =>
    rw [hs] at hstate
    obtain ⟨u, hu, hepos, -⟩ := addItem_of_sliceOpen hstate hrun hit
    obtain rfl : u = t := by simpa [hadd] using hu.symm
    obtain ⟨hcover, hsize1, hsize, -⟩ := chooseItem_bounds hit
    rw [Memory.readRun_length hrun] at hcover
    have hframe := addItem_onlyCandidate hadd
    have hestate : u.estate = s.estate := (congrArg State.estate hframe :)
    have hbase : u.sliceBase = s.sliceBase := (congrArg State.sliceBase hframe :)
    have hslice : u.sliceLen = s.sliceLen := (congrArg State.sliceLen hframe :)
    refine .inr ⟨(congrArg State.status hframe :), ?_⟩
    rw [encoderFuel_of_item hs, encoderFuel_of_item (hestate.trans hs), hlen, hbase, hslice, hepos]
    omega
  | emit hs hsource hemit =>
    rw [hs] at hstate
    obtain ⟨⟨hlo, hhi, hin, -⟩, -⟩ := hstate
    have hlt := s.inLen.isLt
    have hnext : (s.sliceBase + s.sliceLen.setWidth 32).toNat = s.sliceBase.toNat + s.sliceLen.toNat := by
      rw [BitVec.toNat_add, BitVec.toNat_setWidth]
      omega
    refine .inr ⟨(congrArg State.status (emitChunk_appends hemit).frame :), ?_⟩
    rw [encoderFuel_of_emit hs, encoderFuel_of_slice rfl, hlen]
    simp only [hnext]
    omega

/-- A running COMPRESS is DONE before its fuel is spent. -/
theorem run_done {s : State} {k : Nat} (hs : Running s) (he : s.encoding = true) (hk : s.encoderFuel < k) :
    EndsIn (fun u => Running u ∧ u.engine = .done) (core.run k s) := by
  refine run_endsIn (running := fun u => Running u ∧ u.encoding = true) (fun u hu => hu.1.progresses)
    (fun u v ⟨hu, heu⟩ hstep => ?_) (fun u ⟨hu, hdone⟩ => hu.stays (by rw [hdone]; nofun)) ⟨hs, he⟩ hk
  obtain ⟨-, -, -, henc, -⟩ := hu.inv
  have h := (hu.engineStep hstep).encoderStep heu
  exact (h.encoderFuel (henc heu)).imp (fun hdone => ⟨hu.next hstep, hdone⟩)
    fun ⟨hstatus, hless⟩ => ⟨⟨hu.next hstep, (encoding_congr hstatus).trans heu⟩, hless⟩

/-- The start of COMPRESS in a run. -/
theorem running_startCompress {s t : State} {r : BitVec 30} (hs : s.Inv) (hh : s.host = [])
    (h : exec (.cmdCompress r) s = .next t) : Running t ∧ t = startCompress s := by
  obtain ⟨hidle, hloaded, rfl⟩ := exec_cmdCompress_eq_next h
  exact ⟨⟨hh, (HostStep.compress (w := 1#32) rfl hidle hloaded).inv hs⟩, rfl⟩

/-- Settles O53: a slice of `n` bytes takes at most `n + 3` steps, which its bytes pay for. -/
theorem compressEnds : Obligations.CompressEnds := by
  unfold Obligations.CompressEnds
  intro s t r hs hh hstart
  obtain ⟨hrun, rfl⟩ := running_startCompress hs hh hstart
  have hfuel : (startCompress s).encoderFuel = 4 * s.inLen.toNat := rfl
  obtain ⟨u, hu, -, hdone⟩ | hfull := run_done hrun (startCompress_encoding s) (hfuel.trans_lt (Nat.lt_succ_self _))
  · rw [hu]
    exact hdone
  · rw [hfull]

end Sys2Proof.Machine

/-! ## What COMPRESS writes (R146 to R151, R200 to R206) -/

namespace Sys2Proof.Machine

/-! ### The bytes of a slice's items -/

/-- The tag byte of a group's items, the first of them being item `n` of the group (R147). -/
def tagFrom : Nat → List Item → Byte
  | _, [] => 0
  | n, it :: its => it.flag n ||| tagFrom (n + 1) its

theorem tagFrom_concat (n : Nat) (its : List Item) (it : Item) :
    tagFrom n (its ++ [it]) = tagFrom n its ||| it.flag (n + its.length) := by
  induction its generalizing n with
  | nil => simp [tagFrom]
  | cons i its ih =>
    rw [List.cons_append, tagFrom, tagFrom, ih, BitVec.or_assoc, List.length_cons, Nat.add_right_comm, Nat.add_assoc]

/-- The item is a back-reference. -/
def Item.isRef : Item → Bool
  | .lit _ => false
  | .ref _ _ _ => true

theorem Item.flag_getLsbD (it : Item) {n : Nat} (hn : n < 8) (i : Nat) :
    (it.flag n).getLsbD i = (it.isRef && decide (i = n)) := by
  cases it with
  | lit b => simp [Item.flag, Item.isRef]
  | ref p d l =>
    simp only [Item.flag, Item.isRef, BitVec.getLsbD_shiftLeft, Bool.true_and, BitVec.getLsbD_one]
    by_cases h : i = n <;> simp [h] <;> omega

/-- Bit `i` of the tag byte says whether item `i` of the group is a back-reference (R147). -/
theorem tagFrom_getLsbD (n : Nat) (its : List Item) (h : n + its.length ≤ 8) (i : Nat) :
    (tagFrom n its).getLsbD i = (decide (n ≤ i) && its[i - n]?.any Item.isRef) := by
  induction its generalizing n with
  | nil => simp [tagFrom]
  | cons it its ih =>
    rw [List.length_cons] at h
    rw [tagFrom, BitVec.getLsbD_or, it.flag_getLsbD (by omega), ih (n + 1) (by omega)]
    rcases Nat.lt_trichotomy i n with hlt | rfl | hgt
    · simp [show ¬ n ≤ i by omega, show ¬ n + 1 ≤ i by omega, show i ≠ n by omega]
    · simp
    · obtain ⟨j, rfl⟩ := Nat.exists_eq_add_of_lt hgt
      simp [show n ≤ n + j + 1 by omega, show n + j + 1 - (n + 1) = j by omega, show n + j + 1 - n = j + 1 by omega,
        show n + j + 1 ≠ n by omega]

/-- A group's bytes: its tag byte and its items (R146). -/
def groupBytes (its : List Item) : List Byte := tagFrom 0 its :: its.flatMap Item.bytes

/-- The bytes of full groups. -/
def fullBytes (full : List (List Item)) : List Byte := full.flatMap groupBytes

/-- The bytes of the group being filled: none before its first item (R150). -/
def openBytes (its : List Item) : List Byte := if its = [] then [] else groupBytes its

theorem fullBytes_concat (full : List (List Item)) (g : List Item) :
    fullBytes (full ++ [g]) = fullBytes full ++ groupBytes g := by
  simp [fullBytes]

/-- Items chosen one after the other from position `p` of a slice to position `q` (R203, R224). -/
inductive Chosen (bytes : List Byte) : Nat → List Item → Nat → Prop where
  | nil (p : Nat) : Chosen bytes p [] p
  | cons {p q : Nat} {it : Item} {its : List Item} (hit : chooseItem bytes p = some it)
      (hrest : Chosen bytes (p + it.length) its q) : Chosen bytes p (it :: its) q

theorem Chosen.concat {bytes : List Byte} {p q : Nat} {it : Item} {its : List Item} (h : Chosen bytes p its q)
    (hit : chooseItem bytes q = some it) : Chosen bytes p (its ++ [it]) (q + it.length) := by
  induction h with
  | nil p => exact .cons hit (.nil _)
  | cons hit' _ ih => exact .cons hit' (ih hit)

theorem Chosen.of_append {bytes : List Byte} {p q : Nat} {as bs : List Item} (h : Chosen bytes p (as ++ bs) q) :
    ∃ m, Chosen bytes p as m ∧ Chosen bytes m bs q := by
  induction as generalizing p with
  | nil => exact ⟨p, .nil p, h⟩
  | cons a as ih =>
    cases h with
    | cons hit hrest =>
      obtain ⟨m, has, hbs⟩ := ih hrest
      exact ⟨m, .cons hit has, hbs⟩

/-- Groups of eight items and a shorter last one, which cover positions 0 to `q` of a slice (R146, R150). -/
structure Grouped (bytes : List Byte) (full : List (List Item)) (last : List Item) (q : Nat) : Prop where
  eight : ∀ g ∈ full, g.length = 8
  short : last.length < 8
  chosen : Chosen bytes 0 (full.flatten ++ last) q

/-- The bytes of a chunk made of a slice: raw, or compressed into fewer bytes (R204, R205). -/
inductive ChunkOf (bytes : List Byte) : List Byte → Prop where
  | raw (hlo : 1 ≤ bytes.length) (hhi : bytes.length ≤ 4096) :
      ChunkOf bytes (halfBytes (hdrWord 0#1 3#3 (BitVec.ofNat 12 (bytes.length - 1))) ++ bytes)
  | compressed {full : List (List Item)} {last : List Item} {payload : List Byte}
      (hgroups : Grouped bytes full last bytes.length) (hpayload : payload = fullBytes full ++ openBytes last)
      (hlo : 1 ≤ payload.length) (hshort : payload.length < bytes.length) (hhi : bytes.length ≤ 4096) :
      ChunkOf bytes (halfBytes (hdrWord 1#1 3#3 (BitVec.ofNat 12 (payload.length - 1))) ++ payload)

/-- `y` is the chunks of the slices that `x` is made of (R200 to R206). -/
inductive Encodes : List Byte → List Byte → Prop where
  | nil : Encodes [] []
  | concat {x y bytes chunk : List Byte} (h : Encodes x y) (hchunk : ChunkOf bytes chunk) :
      Encodes (x ++ bytes) (y ++ chunk)

/-! ### OUT's bytes -/

/-- OUT holds the bytes `l`, and no more are appended. -/
def State.outIs (s : State) (l : List Byte) : Prop :=
  s.olen.toNat = l.length ∧ ∀ k, k < l.length → s.outBuf.read k = l[k]?

theorem State.outIs.congr {s t : State} {l : List Byte} (h : s.outIs l) (hlen : t.olen = s.olen)
    (hbuf : t.outBuf = s.outBuf) : t.outIs l := by
  unfold State.outIs
  rw [hlen, hbuf]
  exact h

theorem outIs_of_appendAll {s t : State} {l bs : List Byte} (h : s.outIs l) (happ : appendAll bs s = .next t) :
    t.outIs (l ++ bs) := by
  obtain ⟨hlen, hread⟩ := h
  obtain ⟨-, holen, hall⟩ := appendAll_eq_next happ
  refine ⟨by rw [holen, hlen, List.length_append], fun k hk => ?_⟩
  rw [List.length_append] at hk
  rw [hall, hlen]
  split
  case isTrue hnew => rw [List.getElem?_append_right hnew.1]
  case isFalse hnot =>
    have hold : k < l.length := by omega
    rw [hread k hold, List.getElem?_append_left hold]

/-- The bytes of a run are those its addresses hold. -/
theorem Memory.readRun_of_get {m : Memory} {a : Nat} {l : List Byte} (hwf : m.wf = true)
    (h : ∀ k, k < l.length → m.read (a + k) = l[k]?) : m.readRun a l.length = some l := by
  obtain ⟨bs, hbs⟩ : ∃ bs, m.readEach a l.length = some bs :=
    Memory.readEach_isSome fun k hk => by rw [h k hk, List.getElem?_eq_getElem hk, Option.isSome_some]
  have hlen := Memory.readEach_length hbs
  rw [Memory.readRun_eq_readEach m a l.length hwf, hbs]
  refine congrArg some (List.ext_getElem? fun k => ?_)
  by_cases hk : k < l.length
  · rw [← Memory.readEach_get hbs k hk, h k hk]
  · rw [List.getElem?_eq_none (by omega), List.getElem?_eq_none (by omega)]

/-- The result is what was appended (R27, R62). -/
theorem result_of_outIs {s : State} {l : List Byte} (hs : s.Inv) (h : s.outIs l) (hlen : s.outLen = s.olen) :
    s.result = some l := by
  obtain ⟨hb, -⟩ := hs
  obtain ⟨-, ⟨hwf, -⟩, -⟩ := buffersWf_iff.mp hb
  obtain ⟨holen, hread⟩ := h
  rw [State.result, hlen, holen]
  exact Memory.readRun_of_get hwf fun k hk => by rw [Nat.zero_add, hread k hk]

/-! ### Packing a slice -/

/-- CAND holds full groups and the one being filled, and EIDX and ETAG_AT point into the latter (R42, R150). -/
structure Packed (s : State) (full : List (List Item)) (last : List Item) : Prop where
  cand : s.candIs (fullBytes full ++ openBytes last)
  eidx : s.eidx.toNat = if last = [] then 8 else last.length
  etagAt : last ≠ [] → s.etagAt.toNat = (fullBytes full).length

theorem Packed.joins {s : State} {full : List (List Item)} {last : List Item} (h : Packed s full last)
    (hlast : last.length < 8) :
    joinsGroup s (fullBytes full ++ openBytes last) (fullBytes full) (tagFrom 0 last) (last.flatMap Item.bytes)
      last.length := by
  have heidx := h.eidx
  unfold joinsGroup
  by_cases hnil : last = []
  · subst hnil
    rw [if_pos (BitVec.eq_of_toNat_eq heidx)]
    simp [openBytes, tagFrom]
  · rw [if_neg hnil] at heidx
    rw [if_neg fun he => by rw [he] at heidx; simp at heidx; omega]
    exact ⟨by rw [openBytes, if_neg hnil, groupBytes], h.etagAt hnil, heidx.symm⟩

/-- The item chosen joins the last group, which may become full. -/
theorem packed_of_addItem {s t : State} {bytes : List Byte} {full : List (List Item)} {last : List Item} {it : Item}
    (h : Packed s full last) (hg : Grouped bytes full last s.epos.toNat) (hopen : s.sliceOpen)
    (hlen : bytes.length = s.sliceLen.toNat) (hit : chooseItem bytes s.epos.toNat = some it)
    (hadd : addItem it (advance it.length s) = .next t) :
    ∃ full' last', Packed t full' last' ∧ Grouped bytes full' last' (s.epos.toNat + it.length) := by
  have hjoin := h.joins hg.short
  obtain ⟨-, hslice, -, -, -, hbound, -⟩ := hopen
  obtain ⟨hcover, hsize1, hsize, hratio⟩ := chooseItem_bounds hit
  have hcand := h.cand.1
  have heidx := h.eidx
  have hroom : (fullBytes full).length + 1 + (last.flatMap Item.bytes).length + it.bytes.length ≤ 4608 := by
    by_cases hnil : last = []
    · subst hnil
      rw [if_pos rfl] at heidx
      simp only [openBytes, if_true, List.append_nil, List.flatMap_nil, List.length_nil] at hcand ⊢
      omega
    · rw [if_neg hnil] at heidx
      simp only [openBytes, if_neg hnil, groupBytes, List.length_append, List.length_cons] at hcand
      omega
  obtain ⟨u, hu, hcandU, hat, hnext⟩ := addItem_candIs (s := advance it.length s) it h.cand hjoin hg.short hroom
  obtain rfl : u = t := by simpa [hadd] using hu.symm
  have hgroup : (tagFrom 0 last ||| it.flag last.length) :: (last.flatMap Item.bytes ++ it.bytes) =
      groupBytes (last ++ [it]) := by
    rw [groupBytes, tagFrom_concat, Nat.zero_add, List.flatMap_append, List.flatMap_singleton]
  rw [hgroup] at hcandU
  have hchosen := hg.chosen.concat hit
  rw [List.append_assoc] at hchosen
  by_cases hfull : last.length + 1 = 8
  · refine ⟨full ++ [last ++ [it]], [], ⟨?_, ?_, ?_⟩, ⟨?_, ?_, ?_⟩⟩
    · rwa [fullBytes_concat, openBytes, if_pos rfl, List.append_nil]
    · rw [hnext, if_pos rfl, hfull]
    · exact fun h => absurd rfl h
    · intro g hgmem
      rcases List.mem_append.mp hgmem with hold | hnew
      · exact hg.eight g hold
      · rw [List.mem_singleton.mp hnew, List.length_append, List.length_singleton, hfull]
    · decide
    · simpa using hchosen
  · have hne : last ++ [it] ≠ [] := by simp
    refine ⟨full, last ++ [it], ⟨?_, ?_, fun _ => hat⟩, ⟨hg.eight, ?_, hchosen⟩⟩
    · rwa [openBytes, if_neg hne]
    · rw [hnext, if_neg hne, List.length_append, List.length_singleton]
    · rw [List.length_append, List.length_singleton]
      have := hg.short
      omega


/-! ### The run of COMPRESS -/

/-- The slice of `x` that is open (R64). -/
def State.sliceOf (s : State) (x : List Byte) : List Byte := (x.drop s.sliceBase.toNat).take s.sliceLen.toNat

/-- CAND holds the items chosen so far in the open slice. -/
def State.packs (s : State) (bytes : List Byte) : Prop :=
  ∃ full last, Packed s full last ∧ Grouped bytes full last s.epos.toNat

/-- A COMPRESS of `x` between its steps: OUT holds the chunks of the slices before SLICE_BASE, and CAND the items of
the open slice. -/
structure Compressing (x : List Byte) (s : State) : Prop where
  running : Running s
  encoding : s.encoding = true
  input : s.inputIs x
  out : ∃ y, Encodes (x.take s.sliceBase.toNat) y ∧ s.outIs y
  packs : s.estate ≠ .slice → s.packs (s.sliceOf x)

/-- A COMPRESS of `x` that completed: OUT holds its chunks. -/
structure Compressed (x : List Byte) (s : State) : Prop where
  running : Running s
  engine : s.engine = .done
  outLen : s.outLen = s.olen
  out : ∃ y, Encodes x y ∧ s.outIs y

theorem inputIs_congr {s t : State} {x : List Byte} (h : SameInput s t) (hs : s.inputIs x) : t.inputIs x := by
  unfold State.inputIs
  rw [h.inLen, h.inBuf]
  exact hs

/-- The open slice's bytes are those of `x`. -/
theorem readRun_sliceOf {s : State} {x bytes : List Byte} (hs : s.Inv) (hx : s.inputIs x)
    (hin : s.sliceBase.toNat + s.sliceLen.toNat ≤ s.inLen.toNat)
    (hrun : s.inBuf.readRun s.sliceBase.toNat s.sliceLen.toNat = some bytes) : bytes = s.sliceOf x := by
  obtain ⟨hb, -⟩ := hs
  obtain ⟨⟨hwf, -⟩, -⟩ := buffersWf_iff.mp hb
  obtain ⟨hlen, hread⟩ := hx
  rw [Memory.readRun_part hwf hread (hlen ▸ hin)] at hrun
  exact (Option.some.inj hrun).symm

theorem sliceOf_length {s : State} {x : List Byte} (hx : s.inputIs x)
    (hin : s.sliceBase.toNat + s.sliceLen.toNat ≤ s.inLen.toNat) : (s.sliceOf x).length = s.sliceLen.toNat := by
  rw [hx.1] at hin
  rw [State.sliceOf, List.length_take, List.length_drop]
  omega

/-- At a slice's start CAND is empty. -/
theorem packs_of_empty {s : State} {bytes : List Byte} (hcand : s.candLen = 0) (hepos : s.epos = 0)
    (heidx : s.eidx = 8#4) : s.packs bytes := by
  refine ⟨[], [], ⟨⟨by rw [hcand]; rfl, nofun⟩, by rw [heidx]; rfl, fun h => absurd rfl h⟩, ⟨nofun, by decide, ?_⟩⟩
  rw [hepos]
  exact .nil 0

/-- The chunk the emit step writes is one of the open slice (R204, R205). -/
theorem chunkOf_of_emit {s : State} {x payload : List Byte} {c : BitVec 1} (hinv : s.Inv) (he : s.encoding = true)
    (hs : s.estate = .emit) (hx : s.inputIs x) (hpacks : s.packs (s.sliceOf x))
    (hsource : (c = 0#1 ∧ s.sliceLen.toNat ≤ s.candLen.toNat ∧
        s.inBuf.readRun s.sliceBase.toNat s.sliceLen.toNat = some payload) ∨
      (c = 1#1 ∧ s.candLen.toNat < s.sliceLen.toNat ∧ s.cand.readRun 0 s.candLen.toNat = some payload)) :
    ChunkOf (s.sliceOf x) (halfBytes (hdrWord c 3#3 (BitVec.ofNat 12 (payload.length - 1))) ++ payload) := by
  obtain ⟨hlo, hhi, hin, hcand1⟩ := slice_of_emit hinv he hs
  have hlen := sliceOf_length hx hin
  rcases hsource with ⟨rfl, -, hrun⟩ | ⟨rfl, hshort, hrun⟩
  · obtain rfl := readRun_sliceOf hinv hx hin hrun
    exact .raw (hlen ▸ hlo) (hlen ▸ hhi)
  · have hpayload := Memory.readRun_length hrun
    obtain ⟨full, last, hpacked, hgroups⟩ := hpacks
    obtain ⟨hb, -, -, henc, -⟩ := hinv
    obtain ⟨-, -, hwf, -⟩ := buffersWf_iff.mp hb
    obtain ⟨-, -, hstate⟩ := henc he
    rw [hs] at hstate
    obtain ⟨-, hend⟩ := hstate
    rw [hend, ← hlen] at hgroups
    obtain ⟨hcandLen, hread⟩ := hpacked.cand
    have hbytes : payload = fullBytes full ++ openBytes last := by
      rw [hcandLen, Memory.readRun_of_get hwf fun k hk => by rw [Nat.zero_add, hread k hk]] at hrun
      exact (Option.some.inj hrun).symm
    exact .compressed hgroups hbytes (hpayload ▸ hcand1) (by omega) (hlen ▸ hhi)

theorem Compressing.step {x : List Byte} {s t : State} (h : Compressing x s) (hstep : step s = .next t) :
    Compressing x t ∨ Compressed x t := by
  have hnext := h.running.next hstep
  have hes := (h.running.engineStep hstep).encoderStep h.encoding
  have hx := inputIs_congr hes.frame.sameInput h.input
  obtain ⟨y, hy, hout⟩ := h.out
  cases hes with
  | complete hs hend =>
    refine .inr ⟨hnext, finishCompress_engine s, rfl, y, ?_, hout⟩
    rwa [hend, h.input.1, List.take_length] at hy
  | slice hs hlt =>
    exact .inl ⟨hnext, h.encoding, hx, ⟨y, hy, hout⟩, fun _ => packs_of_empty rfl rfl rfl⟩
  | itemsEnd hs hend =>
    obtain ⟨full, last, hpacked, hgroups⟩ := h.packs (by rw [hs]; nofun)
    exact .inl ⟨hnext, h.encoding, hx, ⟨y, hy, hout⟩,
      fun _ => ⟨full, last, ⟨hpacked.cand, hpacked.eidx, hpacked.etagAt⟩, hgroups⟩⟩
  | @item bytes it t hs hne hrun hit hadd =>
    have hopen := sliceOpen_of_item h.running.inv h.encoding hs
    obtain ⟨u, hu, hepos, -⟩ := addItem_of_sliceOpen hopen hrun hit
    obtain rfl : u = t := by simpa [hadd] using hu.symm
    have hslice := hopen
    obtain ⟨-, -, hin, -⟩ := hslice
    obtain rfl := readRun_sliceOf h.running.inv h.input hin hrun
    obtain ⟨full, last, hpacked, hgroups⟩ := h.packs (by rw [hs]; nofun)
    obtain ⟨full', last', hpacked', hgroups'⟩ :=
      packed_of_addItem hpacked hgroups hopen (sliceOf_length h.input hin) hit hadd
    have hframe := addItem_onlyCandidate hadd
    have hbase : u.sliceBase = s.sliceBase := (congrArg State.sliceBase hframe :)
    have hlen : u.sliceLen = s.sliceLen := (congrArg State.sliceLen hframe :)
    have hsame : u.sliceOf x = s.sliceOf x := by rw [State.sliceOf, hbase, hlen, State.sliceOf]
    refine .inl ⟨hnext, (encoding_congr (congrArg State.status hframe :)).trans h.encoding, hx, ⟨y, ?_, ?_⟩,
      fun _ => ?_⟩
    · rwa [hbase]
    · exact hout.congr (congrArg State.olen hframe :) (congrArg State.outBuf hframe :)
    · rw [hsame]
      exact ⟨full', last', hpacked', hepos ▸ hgroups'⟩
  | @emit c payload u hs hsource hemit =>
    obtain ⟨-, -, hin, -⟩ := slice_of_emit h.running.inv h.encoding hs
    have hchunk := chunkOf_of_emit h.running.inv h.encoding hs h.input (h.packs (by rw [hs]; nofun)) hsource
    have hbase : (s.sliceBase + s.sliceLen.setWidth 32).toNat = s.sliceBase.toNat + s.sliceLen.toNat := by
      have hlt := s.inLen.isLt
      rw [BitVec.toNat_add, BitVec.toNat_setWidth]
      omega
    have hframe := (emitChunk_appends hemit).frame
    have hy' := hy.concat hchunk
    rw [State.sliceOf, ← List.take_add, ← hbase] at hy'
    exact .inl ⟨hnext, (encoding_congr (congrArg State.status hframe :)).trans h.encoding, hx,
      ⟨_, hy', (outIs_of_appendAll hout hemit).congr rfl rfl⟩, fun hne => absurd rfl hne⟩

theorem compressing_startCompress {s t : State} {x : List Byte} {r : BitVec 30} (hs : s.Inv) (hh : s.host = [])
    (hx : s.inputIs x) (h : exec (.cmdCompress r) s = .next t) : Compressing x t := by
  obtain ⟨hrun, rfl⟩ := running_startCompress hs hh h
  exact ⟨hrun, startCompress_encoding s, hx, ⟨[], .nil, rfl, nofun⟩, fun hne => absurd rfl hne⟩

/-- What every step keeps, a run keeps. -/
theorem run_keeps {P : State → Prop} (hstep : ∀ s t, P s → step s = .next t → P t) {s t : State} {k : Nat} (hs : P s)
    (h : core.run k s = .next t) : P t := by
  induction k generalizing s with
  | zero =>
    cases h
    exact hs
  | succ k ih =>
    cases hanswer : step s with
    | next u =>
      rw [run_of_step_next hanswer] at h
      exact ih (hstep s u hs hanswer) h
    | fault r =>
      rw [run_of_step_fault hanswer] at h
      cases h
    | refused r =>
      rw [run_of_step_refused hanswer] at h
      cases h

/-- The result of a COMPRESS of `x` is its chunks (R200 to R206). -/
theorem encodes_of_run {s c : State} {x y : List Byte} {k : Nat} (hs : Compressing x s) (hrun : core.run k s = .next c)
    (hdone : c.engine = .done) (hy : c.result = some y) : Encodes x y := by
  have hkeeps : ∀ u v, (Compressing x u ∨ Compressed x u) → step u = .next v → Compressing x v ∨ Compressed x v := by
    rintro u v (hu | hu) hstep
    · exact hu.step hstep
    · rw [hu.running.stays (by rw [hu.engine]; nofun)] at hstep
      cases hstep
      exact .inr hu
  rcases run_keeps hkeeps (.inl hs) hrun with hbusy | hc
  · rw [(encoding_iff.mp hbusy.encoding).1] at hdone
    cases hdone
  · obtain ⟨z, hz, hout⟩ := hc.out
    rw [result_of_outIs hc.running.inv hout hc.outLen] at hy
    cases hy
    exact hz

end Sys2Proof.Machine

/-! ## DECOMPRESS of what COMPRESS wrote (R140 to R144, R171 to R178, R209) -/

namespace Sys2Proof.Machine

/-! ### Steps and the input -/

/-- One step of the engine. -/
def Steps (s t : State) : Prop := step s = .next t

theorem run_of_steps {s t : State} (h : Relation.ReflTransGen Steps s t) : ∃ k, core.run k s = .next t := by
  induction h using Relation.ReflTransGen.head_induction_on with
  | refl => exact ⟨0, rfl⟩
  | head hstep _ ih =>
    obtain ⟨k, hk⟩ := ih
    exact ⟨k + 1, (run_of_step_next hstep k).trans hk⟩

/-- The bytes `l` stand in `y` from address `a` on. -/
structure StandsIn (y : List Byte) (a : Nat) (l : List Byte) : Prop where
  le : a ≤ y.length
  isPrefix : l <+: y.drop a

theorem StandsIn.add_length_le {y l : List Byte} {a : Nat} (h : StandsIn y a l) : a + l.length ≤ y.length := by
  have hle := h.isPrefix.length_le
  have hin := h.le
  rw [List.length_drop] at hle
  omega

theorem StandsIn.left {y l m : List Byte} {a : Nat} (h : StandsIn y a (l ++ m)) : StandsIn y a l :=
  ⟨h.le, (List.prefix_append l m).trans h.isPrefix⟩

theorem StandsIn.right {y l m : List Byte} {a : Nat} (h : StandsIn y a (l ++ m)) : StandsIn y (a + l.length) m := by
  refine ⟨h.left.add_length_le, ?_⟩
  have hdrop := h.isPrefix.drop l.length
  rwa [List.drop_left, List.drop_drop] at hdrop

/-- The bytes of the input can be read where they stand. -/
theorem readRun_of_standsIn {s : State} {y l : List Byte} {a : Nat} (hs : s.Inv) (hy : s.inputIs y)
    (h : StandsIn y a l) : s.inBuf.readRun a l.length = some l := by
  obtain ⟨hb, -⟩ := hs
  obtain ⟨⟨hwf, -⟩, -⟩ := buffersWf_iff.mp hb
  rw [Memory.readRun_part hwf hy.2 h.add_length_le, ← List.prefix_iff_eq_take.mp h.isPrefix]

/-! ### A running DECOMPRESS -/

/-- A DECOMPRESS of `y` between its steps, with room for `n` bytes in OUT. -/
structure Expanding (y : List Byte) (n : Nat) (s : State) : Prop where
  running : Running s
  decoding : s.decoding = true
  input : s.inputIs y
  room : n ≤ s.outCap.toNat

section
variable {y : List Byte} {n : Nat} {s t : State}

theorem Expanding.next (h : Expanding y n s) (hstep : step s = .next t) (hstatus : t.status = s.status) :
    Expanding y n t where
  running := h.running.next hstep
  decoding := (decoding_congr hstatus).trans h.decoding
  input := inputIs_congr (h.running.engineStep hstep).sameInput h.input
  room := by
    rw [(h.running.engineStep hstep).sameInput.outCap]
    exact h.room

theorem Expanding.decoderInv (h : Expanding y n s) : s.decoderInv := by
  obtain ⟨-, -, hdec, -⟩ := h.running.inv
  exact hdec h.decoding

theorem Expanding.readRun (h : Expanding y n s) {a : Nat} {l : List Byte} (hst : StandsIn y a l) :
    s.inBuf.readRun a l.length = some l :=
  readRun_of_standsIn h.running.inv h.input hst

theorem Expanding.le_inLen (h : Expanding y n s) {a : Nat} {l : List Byte} (hst : StandsIn y a l) :
    a + l.length ≤ s.inLen.toNat :=
  hst.add_length_le.trans_eq h.input.1.symm

end

/-- The decoder stands before a header at address `a`, having written `x`. -/
structure BeforeChunk (y : List Byte) (n : Nat) (x : List Byte) (a : Nat) (s : State) : Prop where
  expanding : Expanding y n s
  dstate : s.dstate = .hdr
  ip : s.ip.toNat = a
  out : s.outIs x

/-- The decoder stands at the first of a chunk's `m` payload bytes, at address `a`, having written `x` (R175). -/
structure AfterHeader (y : List Byte) (n : Nat) (x : List Byte) (a m : Nat) (d : DState) (s : State) : Prop where
  expanding : Expanding y n s
  dstate : s.dstate = d
  ip : s.ip.toNat = a
  chunkEnd : s.chunkEnd.toNat = a + m
  size : s.size.toNat = m
  pos : s.pos.toNat = 0
  outBase : s.outBase = s.olen
  out : s.outIs x

/-- The header COMPRESS writes for `m` payload bytes is conformant, and sets up their chunk (R174, R205). -/
theorem BeforeChunk.step_header {y x : List Byte} {n a m : Nat} {s : State} (h : BeforeChunk y n x a s) {c : BitVec 1}
    (hst : StandsIn y a (halfBytes (hdrWord c 3#3 (BitVec.ofNat 12 (m - 1))))) :
    s.ip.toNat + 2 ≤ s.inLen.toNat ∧ step s = .next (chunkSetup (c == 1#1) (BitVec.ofNat 12 (m - 1)) s) := by
  have hrun := h.expanding.readRun hst
  have hin := h.expanding.le_inLen hst
  rw [← h.ip] at hrun hin
  refine ⟨hin, ?_⟩
  have hat : s.atHeader = true := atHeader_iff.mpr ⟨h.expanding.decoding, h.dstate, hin⟩
  rw [step_eq_exec_header h.expanding.running.host hat hrun, le16_bytes, decodeHeader_hdrWord,
    if_neg (fun hend => absurd hend.2.1 (by decide)), if_pos rfl]
  by_cases hc : c = 1#1
  · rw [if_pos hc, exec_hdrC_of_atHeader hat, hc]
    rfl
  · rw [if_neg hc, exec_hdrR_of_atHeader hat, beq_eq_false_iff_ne.mpr hc]

theorem BeforeChunk.header {y x : List Byte} {n a m : Nat} {s : State} (h : BeforeChunk y n x a s) (hlo : 1 ≤ m)
    (hhi : m ≤ 4096) {c : BitVec 1} (hst : StandsIn y a (halfBytes (hdrWord c 3#3 (BitVec.ofNat 12 (m - 1))))) :
    ∃ t, Steps s t ∧ AfterHeader y n x (a + 2) m (if c == 1#1 then .tag else .raw) t := by
  obtain ⟨hin, hstep⟩ := h.step_header hst
  have hip : (s.ip + 2).toNat = s.ip.toNat + 2 := ip_add_toNat hin
  have hsize : (chunkSize (BitVec.ofNat 12 (m - 1))).toNat = m := by
    rw [chunkSize_eq_ofNat, BitVec.toNat_ofNat, BitVec.toNat_ofNat]
    omega
  have hend : (s.ip + 2 + (chunkSize (BitVec.ofNat 12 (m - 1))).setWidth 33).toNat = s.ip.toNat + 2 + m := by
    have hlt := s.inLen.isLt
    rw [BitVec.toNat_add, hip, BitVec.toNat_setWidth, hsize]
    omega
  rw [h.ip] at hip hend
  exact ⟨_, hstep, h.expanding.next hstep rfl, chunkSetup_dstate _ _ _, hip, hend, hsize, rfl, rfl, h.out⟩

/-- A raw chunk gives its payload (R176). -/
theorem AfterHeader.raw {y x bytes : List Byte} {n a : Nat} {s : State} (h : AfterHeader y n x a bytes.length .raw s)
    (hlo : 1 ≤ bytes.length) (hhi : bytes.length ≤ 4096) (hfit : x.length + bytes.length ≤ n)
    (hst : StandsIn y a bytes) : ∃ t, Steps s t ∧ BeforeChunk y n (x ++ bytes) (a + bytes.length) t := by
  have hrun := h.expanding.readRun hst
  have hin := h.expanding.le_inLen hst
  have hend := h.chunkEnd
  rw [← h.ip] at hrun hin hend
  have hat : s.atRaw bytes.length = true := atRaw_iff.mpr ⟨h.expanding.decoding, h.dstate, h.size.symm⟩
  have hroom := h.expanding.room
  obtain ⟨u, happ⟩ := appendAll_succeeds (bs := bytes) (s := s) (by rw [h.out.1]; omega)
  have hstep : step s = .next { u with pos := s.size, ip := s.chunkEnd, dstate := .hdr } := by
    rw [step_eq_exec_raw h.expanding.running.host hat fun _ => ⟨hin, by simp [Instr.wellFormed, hlo, hhi], hrun⟩]
    exact exec_raw_of_appendAll hat (hend.trans_le hin) happ
  have hstatus : u.status = s.status := (congrArg State.status (appendAll_appends happ).frame :)
  exact ⟨_, hstep, h.expanding.next hstep hstatus, rfl, h.chunkEnd, (outIs_of_appendAll h.out happ).congr rfl rfl⟩

/-! ### The items of a compressed chunk (R140 to R144) -/

/-- A compressed chunk being decoded: the input, the room in OUT, what OUT held before the chunk, the slice the chunk
was made of, and CHUNK_END. -/
structure OpenChunk where
  input : List Byte
  room : Nat
  before : List Byte
  slice : List Byte
  stop : Nat

/-- The slice has a chunk's size, and there is room for it. -/
structure OpenChunk.Fits (c : OpenChunk) : Prop where
  slice : c.slice.length ≤ 4096
  room : c.before.length + c.slice.length ≤ c.room

/-- The decoder stands in a chunk at address `a`, having written the first `p` bytes of the slice. -/
structure Unpacking (c : OpenChunk) (d : DState) (p a : Nat) (s : State) : Prop where
  expanding : Expanding c.input c.room s
  dstate : s.dstate = d
  ip : s.ip.toNat = a
  chunkEnd : s.chunkEnd.toNat = c.stop
  pos : s.pos.toNat = p
  outBase : s.outBase.toNat = c.before.length
  out : s.outIs (c.before ++ c.slice.take p)

section
variable {c : OpenChunk} {d : DState} {p a : Nat} {s : State}

/-- OUT in two parts: the bytes before the chunk and the window. -/
theorem outIs_append_take_iff {x bytes : List Byte} (hp : p ≤ bytes.length) :
    s.outIs (x ++ bytes.take p) ↔
      s.olen.toNat = x.length + p ∧ (∀ k, k < x.length → s.outBuf.read k = x[k]?) ∧
        ∀ k, k < p → s.outBuf.read (x.length + k) = bytes[k]? := by
  have hlen : (x ++ bytes.take p).length = x.length + p := by
    rw [List.length_append, List.length_take, Nat.min_eq_left hp]
  have hold : ∀ k, k < x.length → (x ++ bytes.take p)[k]? = x[k]? := fun k hk => List.getElem?_append_left hk
  have hnew : ∀ k, k < p → (x ++ bytes.take p)[x.length + k]? = bytes[k]? := fun k hk => by
    rw [List.getElem?_append_right (Nat.le_add_right _ _), Nat.add_sub_cancel_left, List.getElem?_take_of_lt hk]
  unfold State.outIs
  rw [hlen]
  refine and_congr_right fun _ => ⟨fun h => ⟨fun k hk => ?_, fun k hk => ?_⟩, fun ⟨hx, hwin⟩ k hk => ?_⟩
  · rw [h k (by omega), hold k hk]
  · rw [h _ (by omega), hnew k hk]
  · rcases Nat.lt_or_ge k x.length with hlt | hge
    · rw [hx k hlt, hold k hlt]
    · obtain ⟨j, rfl⟩ := Nat.exists_eq_add_of_le hge
      rw [hwin j (by omega), hnew j (by omega)]

/-- Where a byte of the chunk is left the budget is not spent. -/
theorem Unpacking.ip_ne (h : Unpacking c d p a s) (hstop : a < c.stop) : s.ip ≠ s.chunkEnd := fun he => by
  have heq := congrArg BitVec.toNat he
  rw [h.ip, h.chunkEnd] at heq
  omega

/-- A literal of the slice (R142). -/
theorem Unpacking.lit (h : Unpacking c .item p a s) (hc : c.Fits) (hidx : s.idx.toNat < 8) {b : Byte}
    (hit : chooseItem c.slice p = some (.lit b)) (htag : s.tag.getLsbD s.idx.toNat = false)
    (hst : StandsIn c.input a [b]) (hstop : a + 1 ≤ c.stop) :
    ∃ t, Steps s t ∧ Unpacking c .item (p + 1) (a + 1) t ∧ t.idx = s.idx + 1 ∧ t.tag = s.tag := by
  have hcover : p + 1 ≤ c.slice.length := (chooseItem_bounds hit).1
  have hbyte := ((chooseItem_eq_lit_iff hcover).mp hit).2
  have hne := h.ip_ne hstop
  have hrun := h.expanding.readRun hst
  have hin : a + 1 ≤ s.inLen.toNat := h.expanding.le_inLen hst
  rw [← h.ip] at hrun hin
  have hat : s.atLiteral = true := atLiteral_iff.mpr ⟨atItem_iff.mpr ⟨h.expanding.decoding, h.dstate, hidx, hne⟩, htag⟩
  have hslice := hc.slice
  have hpos : s.pos.toNat + 1 ≤ 4096 := by rw [h.pos]; omega
  have holen := ((outIs_append_take_iff (by omega)).mp h.out).1
  have hroom : s.olen.toNat < s.outCap.toNat := by
    have := h.expanding.room
    have := hc.room
    omega
  have hstep := (step_eq_exec_lit h.expanding.running.host hat fun _ => hrun).trans
    (exec_lit_appends hat hin hpos hroom b)
  have hout : (putOut b s).outIs (c.before ++ c.slice.take (p + 1)) := by
    rw [List.take_add_one, hbyte, ← List.append_assoc]
    exact outIs_of_appendAll h.out (by rw [Option.toList_some, appendAll, append_of_lt hroom, andThen_next, appendAll])
  refine ⟨_, hstep, ⟨h.expanding.next hstep rfl, h.dstate, ?_, h.chunkEnd, ?_, h.outBase, hout.congr rfl rfl⟩, rfl, rfl⟩
  · exact (ip_add_toNat hin).trans (congrArg (· + 1) h.ip)
  · exact (pos_add_toNat hpos).trans (congrArg (· + 1) h.pos)

/-- A back-reference the match finder chose (R143, R144). -/
theorem Unpacking.ref (h : Unpacking c .item p a s) (hc : c.Fits) (hidx : s.idx.toNat < 8) {d l : Nat}
    (href : ChosenRef c.slice p d l) (htag : s.tag.getLsbD s.idx.toNat = true)
    (hst : StandsIn c.input a (halfBytes (refWord p d l))) (hstop : a + 2 ≤ c.stop) :
    ∃ t, Steps s t ∧ Unpacking c .item (p + l) (a + 2) t ∧ t.idx = s.idx + 1 ∧ t.tag = s.tag := by
  have hinside := href.inside
  have hslice := hc.slice
  have hne := h.ip_ne (by omega)
  have hrun := h.expanding.readRun hst
  have hin : a + 2 ≤ s.inLen.toNat := h.expanding.le_inLen hst
  rw [← h.ip] at hrun hin
  have hat : s.atRef (bfc p) = true :=
    atRef_iff.mpr ⟨atItem_iff.mpr ⟨h.expanding.decoding, h.dstate, hidx, hne⟩, htag, by rw [h.pos]⟩
  obtain ⟨holen, hbefore, hwin⟩ := (outIs_append_take_iff (by omega)).mp h.out
  have hroom : s.olen.toNat + l ≤ s.outCap.toNat := by
    have := h.expanding.room
    have := hc.room
    omega
  have hd := href.le
  have hdo : d ≤ s.olen.toNat := by omega
  obtain ⟨-, -, -, hlisted, -⟩ := h.expanding.decoderInv
  obtain ⟨u, hcopy⟩ := copyBytes_succeeds href.pos hdo (listed_last hdo hlisted) hroom
  have hstep := (step_eq_exec_ref (href.operands hslice) h.expanding.running.host hat fun _ _ =>
      ⟨_, _, hrun, by rw [h.pos, le16_bytes]⟩).trans
    (exec_ref_of_copyBytes (href.operands hslice) hat
      (refTruncated_eq_none_iff.mpr ⟨by rw [h.ip, h.chunkEnd]; exact hstop, hin⟩) (href.wellFormed hslice h.pos) hcopy)
  have happ := copyBytes_appends hcopy
  have hout : u.outIs (c.before ++ c.slice.take (p + l)) := by
    refine (outIs_append_take_iff hinside).mpr ⟨by rw [happ.out.olen]; omega, fun k hk => ?_, fun k hk => ?_⟩
    · rw [happ.out.other k (.inl (by omega)), hbefore k hk]
    · rw [← h.outBase]
      exact href.copy (by rw [h.outBase, holen]) (by rw [h.outBase]; exact hwin) hcopy k hk
  have hframe := happ.frame
  refine ⟨_, hstep, ⟨h.expanding.next hstep (congrArg State.status hframe :), ?_, ?_, ?_, ?_, ?_, hout.congr rfl rfl⟩,
    rfl, (congrArg State.tag hframe :)⟩
  · exact (congrArg State.dstate hframe :).trans h.dstate
  · exact (ip_add_toNat hin).trans (congrArg (· + 2) h.ip)
  · exact (congrArg (·.chunkEnd.toNat) hframe :).trans h.chunkEnd
  · exact (pos_add_toNat (by rw [h.pos]; omega)).trans (congrArg (· + l) h.pos)
  · exact (congrArg (·.outBase.toNat) hframe :).trans h.outBase

/-- The item chosen at `p`, wherever its tag bit says what it is (R141). -/
theorem Unpacking.item (h : Unpacking c .item p a s) (hc : c.Fits) (hidx : s.idx.toNat < 8) {it : Item}
    (hit : chooseItem c.slice p = some it) (htag : s.tag.getLsbD s.idx.toNat = it.isRef)
    (hst : StandsIn c.input a it.bytes) (hstop : a + it.bytes.length ≤ c.stop) :
    ∃ t, Steps s t ∧ Unpacking c .item (p + it.length) (a + it.bytes.length) t ∧ t.idx = s.idx + 1 ∧ t.tag = s.tag := by
  cases it with
  | lit b => exact h.lit hc hidx hit htag hst hstop
  | ref q d l =>
    obtain ⟨rfl, href⟩ := chosenRef_of_chooseItem hit
    exact h.ref hc hidx href htag hst hstop

/-- The items of a group, one step each, while TAG says what they are. -/
theorem Unpacking.items (h : Unpacking c .item p a s) (hc : c.Fits) {q : Nat} {its : List Item}
    (hchosen : Chosen c.slice p its q) (hidx : s.idx.toNat + its.length ≤ 8)
    (htag : ∀ j, j < its.length → s.tag.getLsbD (s.idx.toNat + j) = its[j]?.any Item.isRef)
    (hst : StandsIn c.input a (its.flatMap Item.bytes)) (hstop : a + (its.flatMap Item.bytes).length ≤ c.stop) :
    ∃ t, Relation.ReflTransGen Steps s t ∧ Unpacking c .item q (a + (its.flatMap Item.bytes).length) t ∧
      t.idx.toNat = s.idx.toNat + its.length := by
  induction hchosen generalizing s a with
  | nil p => exact ⟨s, .refl, h, rfl⟩
  | @cons p q it its hit hrest ih =>
    rw [List.length_cons] at hidx htag
    rw [List.flatMap_cons] at hst hstop ⊢
    rw [List.length_append, ← Nat.add_assoc] at hstop ⊢
    obtain ⟨t, hstep, ht, htidx, httag⟩ :=
      h.item hc (by omega) hit (by simpa using htag 0 (Nat.succ_pos _)) hst.left (by omega)
    have hnext : t.idx.toNat = s.idx.toNat + 1 := by rw [htidx, idx_add_one_toNat (by omega)]
    have htagT : ∀ j, j < its.length → t.tag.getLsbD (t.idx.toNat + j) = its[j]?.any Item.isRef := fun j hj => by
      rw [httag, hnext, Nat.add_assoc, Nat.add_comm 1 j, htag (j + 1) (by omega), List.getElem?_cons_succ]
    obtain ⟨u, hreach, hu, huidx⟩ := ih ht (by omega) htagT hst.right hstop
    exact ⟨u, .head hstep hreach, hu, by rw [huidx, hnext, List.length_cons]; omega⟩

/-- A tag byte opens its group (R140). -/
theorem Unpacking.tag (h : Unpacking c .tag p a s) {b : Byte} (hst : StandsIn c.input a [b]) (hstop : a < c.stop) :
    ∃ t, Steps s t ∧ Unpacking c .item p (a + 1) t ∧ t.idx = 0 ∧ t.tag = b := by
  have hne := h.ip_ne hstop
  have hrun := h.expanding.readRun hst
  have hin : a + 1 ≤ s.inLen.toNat := h.expanding.le_inLen hst
  rw [← h.ip] at hrun hin
  obtain ⟨-, -, hopened⟩ := tagStep s b h.expanding.decoding h.dstate
  obtain ⟨hstep, hexec⟩ := hopened hne hin
  have hnext := (hstep h.expanding.running.host hrun).trans hexec
  have hip := (ip_add_toNat hin).trans (congrArg (· + 1) h.ip)
  exact ⟨_, hnext, ⟨h.expanding.next hnext rfl, rfl, hip, h.chunkEnd, h.pos, h.outBase, h.out⟩, rfl, rfl⟩

/-- A group of at most eight items (R140 to R144, R146). -/
theorem Unpacking.group (h : Unpacking c .tag p a s) (hc : c.Fits) {q : Nat} {its : List Item}
    (hchosen : Chosen c.slice p its q) (hlen : its.length ≤ 8) (hst : StandsIn c.input a (groupBytes its))
    (hstop : a + (groupBytes its).length ≤ c.stop) :
    ∃ t, Relation.ReflTransGen Steps s t ∧ Unpacking c .item q (a + (groupBytes its).length) t ∧
      t.idx.toNat = its.length := by
  rw [groupBytes, List.length_cons] at hstop ⊢
  have hsplit : StandsIn c.input a ([tagFrom 0 its] ++ its.flatMap Item.bytes) := hst
  obtain ⟨t, hstep, ht, hidx, htag⟩ := h.tag hsplit.left (by omega)
  have hzero : t.idx.toNat = 0 := by rw [hidx]; rfl
  obtain ⟨u, hreach, hu, huidx⟩ := ht.items hc hchosen (by omega)
    (fun j _ => by rw [htag, hzero, tagFrom_getLsbD 0 its (by omega)]; simp) hsplit.right (by omega)
  refine ⟨u, .head hstep hreach, ?_, by rw [huidx, hzero, Nat.zero_add]⟩
  rwa [Nat.add_assoc, Nat.add_comm 1] at hu

/-- A full group is followed by the next tag byte, or the chunk's end (R141). -/
theorem Unpacking.groupDone (h : Unpacking c .item p a s) (hidx : s.idx.toNat = 8) :
    ∃ t, Steps s t ∧ Unpacking c .tag p a t := by
  obtain ⟨hfull, -⟩ := itemDispatch s h.expanding.running.host h.expanding.decoding h.dstate hidx.le
  have hstep := hfull (BitVec.eq_of_toNat_eq hidx)
  exact ⟨_, hstep, h.expanding.next hstep rfl, rfl, h.ip, h.chunkEnd, h.pos, h.outBase, h.out⟩

theorem Unpacking.fullGroups (h : Unpacking c .tag p a s) (hc : c.Fits) {q : Nat} {full : List (List Item)}
    (hchosen : Chosen c.slice p full.flatten q) (height : ∀ g ∈ full, g.length = 8)
    (hst : StandsIn c.input a (fullBytes full)) (hstop : a + (fullBytes full).length ≤ c.stop) :
    ∃ t, Relation.ReflTransGen Steps s t ∧ Unpacking c .tag q (a + (fullBytes full).length) t := by
  induction full generalizing s p a with
  | nil =>
    cases hchosen
    exact ⟨s, .refl, h⟩
  | cons g full ih =>
    rw [List.flatten_cons] at hchosen
    rw [fullBytes, List.flatMap_cons] at hst hstop ⊢
    rw [List.length_append, ← Nat.add_assoc] at hstop ⊢
    obtain ⟨hg, hrest⟩ := List.forall_mem_cons.mp height
    obtain ⟨m, hhead, htail⟩ := hchosen.of_append
    obtain ⟨t, hreach, ht, hidx⟩ := h.group hc hhead hg.le hst.left (by omega)
    obtain ⟨u, hstep, hu⟩ := ht.groupDone (hidx.trans hg)
    obtain ⟨v, hreachV, hv⟩ := ih hu htail hrest hst.right hstop
    exact ⟨v, hreach.trans (.head hstep hreachV), hv⟩

/-- Where the budget is spent the chunk is done (R140, R141, R177). -/
theorem Unpacking.chunkDone (h : Unpacking c d p a s) (hstop : a = c.stop)
    (hd : d = .tag ∨ d = .item ∧ s.idx.toNat < 8) :
    ∃ t, Steps s t ∧ BeforeChunk c.input c.room (c.before ++ c.slice.take p) c.stop t := by
  have hspent : s.ip = s.chunkEnd := BitVec.eq_of_toNat_eq (by rw [h.ip, h.chunkEnd, hstop])
  have hstep : step s = .next { s with dstate := .hdr } := by
    rcases hd with rfl | ⟨rfl, hidx⟩
    · obtain ⟨hdone, -⟩ := tagStep s 0 h.expanding.decoding h.dstate
      exact hdone h.expanding.running.host hspent
    · obtain ⟨-, hdone, -⟩ := itemDispatch s h.expanding.running.host h.expanding.decoding h.dstate hidx.le
      exact hdone (fun he => by rw [he] at hidx; exact absurd hidx (by decide)) hspent
  exact ⟨_, hstep, h.expanding.next hstep rfl, rfl, h.ip.trans hstop, h.out⟩

/-- The groups of a slice's items give back the slice (R209). -/
theorem Unpacking.groups (h : Unpacking c .tag 0 a s) (hc : c.Fits) {full : List (List Item)} {last : List Item}
    (hgroups : Grouped c.slice full last c.slice.length) (hst : StandsIn c.input a (fullBytes full ++ openBytes last))
    (hstop : a + (fullBytes full ++ openBytes last).length = c.stop) :
    ∃ t, Relation.ReflTransGen Steps s t ∧ BeforeChunk c.input c.room (c.before ++ c.slice) c.stop t := by
  rw [List.length_append] at hstop
  obtain ⟨m, hfull, hlast⟩ := hgroups.chosen.of_append
  obtain ⟨t, hreach, ht⟩ := h.fullGroups hc hfull hgroups.eight hst.left (by omega)
  have htail := hst.right
  by_cases hnil : last = []
  · subst hnil
    cases hlast
    obtain ⟨u, hstep, hu⟩ := ht.chunkDone hstop (.inl rfl)
    rw [List.take_length] at hu
    exact ⟨u, hreach.tail hstep, hu⟩
  · rw [openBytes, if_neg hnil] at htail hstop
    obtain ⟨u, hreachU, hu, hidx⟩ := ht.group hc hlast hgroups.short.le htail (by omega)
    obtain ⟨v, hstep, hv⟩ := hu.chunkDone (by omega) (.inr ⟨rfl, hidx.trans_lt hgroups.short⟩)
    rw [List.take_length] at hv
    exact ⟨v, (hreach.trans hreachU).tail hstep, hv⟩

/-- A compressed chunk of a slice gives the slice. -/
theorem AfterHeader.compressed {y x bytes payload : List Byte} {n a : Nat} {s : State}
    (h : AfterHeader y n x a payload.length .tag s) (hhi : bytes.length ≤ 4096) (hfit : x.length + bytes.length ≤ n)
    {full : List (List Item)} {last : List Item} (hgroups : Grouped bytes full last bytes.length)
    (hpayload : payload = fullBytes full ++ openBytes last) (hst : StandsIn y a payload) :
    ∃ t, Relation.ReflTransGen Steps s t ∧ BeforeChunk y n (x ++ bytes) (a + payload.length) t := by
  subst hpayload
  have hout : s.outIs (x ++ bytes.take 0) := by simpa using h.out
  have hunpacking : Unpacking ⟨y, n, x, bytes, a + (fullBytes full ++ openBytes last).length⟩ .tag 0 a s :=
    ⟨h.expanding, h.dstate, h.ip, h.chunkEnd, h.pos, by rw [h.outBase]; exact h.out.1, hout⟩
  exact hunpacking.groups ⟨hhi, hfit⟩ hgroups hst rfl

end

/-! ### The stream -/

/-- The chunk of a slice gives the slice (R209). -/
theorem BeforeChunk.chunk {y x bytes chunk : List Byte} {n a : Nat} {s : State} (h : BeforeChunk y n x a s)
    (hchunk : ChunkOf bytes chunk) (hfit : x.length + bytes.length ≤ n) (hst : StandsIn y a chunk) :
    ∃ t, Relation.ReflTransGen Steps s t ∧ BeforeChunk y n (x ++ bytes) (a + chunk.length) t := by
  cases hchunk with
  | raw hlo hhi =>
    obtain ⟨t, hheader, ht⟩ := h.header hlo hhi hst.left
    obtain ⟨u, hstep, hu⟩ := ht.raw hlo hhi hfit hst.right
    rw [List.length_append, ← Nat.add_assoc]
    exact ⟨u, .head hheader (.single hstep), hu⟩
  | compressed hgroups hpayload hlo hshort hhi =>
    obtain ⟨t, hheader, ht⟩ := h.header hlo (hshort.le.trans hhi) hst.left
    obtain ⟨u, hreach, hu⟩ := ht.compressed hhi hfit hgroups hpayload hst.right
    rw [List.length_append, ← Nat.add_assoc]
    exact ⟨u, .head hheader hreach, hu⟩

/-- The chunks of `x` give `x`. -/
theorem BeforeChunk.stream {y x z : List Byte} {n : Nat} {s : State} (h : BeforeChunk y n [] 0 s) (hz : Encodes x z)
    (hfit : x.length ≤ n) (hst : StandsIn y 0 z) :
    ∃ t, Relation.ReflTransGen Steps s t ∧ BeforeChunk y n x z.length t := by
  induction hz with
  | nil => exact ⟨s, .refl, h⟩
  | concat _ hchunk ih =>
    rw [List.length_append] at hfit ⊢
    obtain ⟨t, hreach, ht⟩ := ih (by omega) hst.left
    have hright := hst.right
    rw [Nat.zero_add] at hright
    obtain ⟨u, hreachU, hu⟩ := ht.chunk hchunk hfit hright
    exact ⟨u, hreach.trans hreachU, hu⟩

/-- At the input's end the command completes with what OUT holds (R171, R178). -/
theorem BeforeChunk.finish {y x : List Byte} {n : Nat} {s : State} (h : BeforeChunk y n x y.length s) :
    ∃ t, Steps s t ∧ t.engine = .done ∧ t.outLen.toNat = x.length ∧ t.result = some x := by
  have hstep := step_of_inputEnd h.expanding.running.host h.expanding.decoding h.dstate
    (h.ip.trans h.expanding.input.1.symm)
  exact ⟨_, hstep, finishDecompress_engine s, h.out.1,
    result_of_outIs (h.expanding.running.next hstep).inv (h.out.congr rfl rfl) rfl⟩

/-- Settles O54: the result of COMPRESS is the chunks of its input, which DECOMPRESS decodes chunk by chunk. -/
theorem decompressUndoesCompress : Obligations.DecompressUndoesCompress := by
  unfold Obligations.DecompressUndoesCompress
  intro s t c u v r r' k x y hs hh hx hstart hrun hdone hy hu huh huy hroom hstart'
  have hencodes := encodes_of_run (compressing_startCompress hs hh hx hstart) hrun hdone hy
  obtain ⟨hrunning, rfl⟩ := running_startDecompress hu huh hstart'
  have hbefore : BeforeChunk y x.length [] 0 (startDecompress u) :=
    ⟨⟨hrunning, startDecompress_decoding u, huy, hroom⟩, rfl, rfl, rfl, nofun⟩
  obtain ⟨w, hreach, hw⟩ := hbefore.stream hencodes le_rfl ⟨Nat.zero_le _, List.prefix_rfl⟩
  obtain ⟨z, hstep, hz⟩ := hw.finish
  obtain ⟨n, hn⟩ := run_of_steps (hreach.tail hstep)
  exact ⟨n, z, hn, hz⟩

end Sys2Proof.Machine
